-- ==== Sys2Proof/Word.lean ====
section
/-! DEFINITION. The words the block handles: bytes, operation words, slot words, and their plainest arithmetic. -/

namespace Sys2Proof

/-- A byte, 8 bits, an unsigned value 0..255 (R8). -/
abbrev Byte := BitVec 8

/-- An operation word or a response word: 16 bits (R68, R76). -/
abbrev Word := BitVec 16

end Sys2Proof
end

