-- ==== Sys2Proof/Config.lean ====
section
/-! DEFINITION. The parameters of 00_scope.md R6 and the free values of the spec (93_implementation_defined.md U3). -/

namespace Sys2Proof.Config

/-- `SYNC` of R6: the first byte of every wire frame. UNVERIFIED (N1, U12); unsafe; log entry 10. -/
def sync : Byte := 0x3A

/-- `PAYLOAD_CAP` of R6: the payload bound in bytes. UNVERIFIED (N1, U12); unsafe; log entry 10. -/
abbrev payloadCap : Nat := 128

/-- `QUEUE_SLOTS` of R6: the slots of the queue, of which one fewer is usable. UNVERIFIED (N1, U12); unsafe; log entry 10. -/
abbrev queueSlots : Nat := 10

/-- What `RXP[i]` holds after the `n`-th reset until something writes it: any value (R35, R188, U3).
A free value: it has no body, so nothing can rest on it. DESIGN CHOICE; safe; log entry 5. -/
opaque initialRxp (n i : Nat) : Byte

/-- What `TXP[i]` holds after the `n`-th reset until something writes it: any value (R35, R188, U3).
A free value. DESIGN CHOICE; safe; log entry 5. -/
opaque initialTxp (n i : Nat) : Byte

/-- What `SLOT[i]` holds after the `n`-th reset until something writes it: any 9 bits (R35, R188, U3).
A free value. DESIGN CHOICE; safe; log entry 5. -/
opaque initialSlot (n i : Nat) : BitVec 9

end Sys2Proof.Config
end

