-- ==== Sys2Proof/Syntax.lean ====
section
/-! DEFINITION. The eight operations of the operation map (30_encoding.md R70), and the fields of an operation word (R68). -/

namespace Sys2Proof

/-- The direction of a key event (10_state.md R27). -/
inductive Direction where
  | down
  | up
deriving DecidableEq, Repr

/-- A key event: direction and HID usage code (10_state.md R27). A queue slot holds one. -/
structure KeyEvent where
  direction : Direction
  usage : Byte
deriving DecidableEq, Repr

/-- An operation: one constructor per row of opcode_table.json. An operand's type is its field's width (R69), so an
operation out of range cannot be written; what can be ill-formed is an operation WORD (WellFormed.lean). -/
inductive Instr where
  /-- `RXB b`: hand one received byte to the receive state machine (R85). -/
  | rxb (b : Byte)
  /-- `ABORT`: the external abort signal (R153). -/
  | abort
  /-- `MODEK`: session mode to `Keyboard` (R151). -/
  | modek
  /-- `TXNEW c`: start a transmit frame with command `c` (R112). -/
  | txnew (c : Byte)
  /-- `TXAPP b`: append a byte to the transmit payload (R113). -/
  | txapp (b : Byte)
  /-- `TXENC`: encode the transmit frame (R114). -/
  | txenc
  /-- `PUSH d,u`: offer a key event to the queue (R132). -/
  | push (d : Direction) (u : Byte)
  /-- `POP`: take the oldest key event (R136). -/
  | pop
deriving DecidableEq, Repr

/-- The four fields of the operation word format `OPW` (R68), high bits first. -/
structure OpFields where
  op : BitVec 4
  zero : BitVec 3
  arg8 : BitVec 1
  arg : Byte
deriving DecidableEq, Repr

/-- Why a word is reserved (R72), one name for each clause of that rule. -/
inductive Reserved where
  /-- `op` is no operation code. -/
  | unknownOp
  /-- bits 11:9 are not `000`. -/
  | nonzeroZero
  /-- bit 8 is set and the operation is not `PUSH`. -/
  | strayArg8
  /-- bits 7:0 are not `0x00` and the operation has no argument. -/
  | strayArg
deriving DecidableEq, Repr

end Sys2Proof
end

