-- ==== Sys2Proof/Machine/Operands.lean ====
section
/-! DEFINITION. Operand assembly: the fields of an operation word (30_encoding.md R68, R69), the 9-bit layout of a key event
(10_state.md R27), and the assembly of the payload length (30_encoding.md R63). -/

namespace Sys2Proof

/-- The bit that stands for a direction: 0 `Down`, 1 `Up` (R27). -/
def Direction.toBit : Direction → BitVec 1
  | .down => 0
  | .up => 1

/-- The direction a bit stands for (R27). -/
def Direction.ofBit (b : BitVec 1) : Direction :=
  if b = 0 then .down else .up

/-- A key event in 9 bits: bit 8 the direction, bits 7:0 the usage code (R27). -/
def KeyEvent.toBits (e : KeyEvent) : BitVec 9 :=
  e.direction.toBit ++ e.usage

/-- The key event that 9 bits stand for (R27). -/
def KeyEvent.ofBits (v : BitVec 9) : KeyEvent :=
  ⟨Direction.ofBit (v.extractLsb' 8 1), v.extractLsb' 0 8⟩

/-- The fields of an operation word (R68). -/
def OpFields.ofWord (w : Word) : OpFields :=
  { op := w.extractLsb' 12 4
    zero := w.extractLsb' 9 3
    arg8 := w.extractLsb' 8 1
    arg := w.extractLsb' 0 8 }

/-- The operation word of four fields (R68). -/
def OpFields.toWord (f : OpFields) : Word :=
  f.op ++ f.zero ++ f.arg8 ++ f.arg

/-- `rx_len[7:0] <- b`: bits 15:8 stay (R92). -/
def setLenLow (len : BitVec 16) (b : Byte) : BitVec 16 :=
  len.extractLsb' 8 8 ++ b

/-- `rx_len[15:8] <- b`: bits 7:0 stay (R93). -/
def setLenHigh (len : BitVec 16) (b : Byte) : BitVec 16 :=
  b ++ len.extractLsb' 0 8

/-- `len_lo` of a payload of `n` bytes: bits 7:0 of the length (R60, R63). -/
def lenLow (n : Nat) : Byte :=
  BitVec.ofNat 8 n

/-- `len_hi` of a payload of `n` bytes: bits 15:8 of the length (R60, R63). -/
def lenHigh (n : Nat) : Byte :=
  BitVec.ofNat 8 (n / 256)

end Sys2Proof
end

