-- ==== Sys2Proof/WellFormed.lean ====
section
/-! DEFINITION. When an operation word is well formed: the four clauses of 30_encoding.md R72, on the fields of R68. -/

namespace Sys2Proof

/-- First clause of R72: `op` is one of the eight codes of R70. -/
def OpFields.opKnown (f : OpFields) : Bool :=
  [0x1, 0x2, 0x3, 0x4, 0x5, 0x6, 0x8, 0x9].contains f.op.toNat

/-- Second clause of R72: bits 11:9 are `000`. -/
def OpFields.zeroClear (f : OpFields) : Bool :=
  f.zero.toNat == 0

/-- Third clause of R72: bit 8 is 0 unless `op` is `PUSH`'s. -/
def OpFields.arg8Clear (f : OpFields) : Bool :=
  f.arg8.toNat == 0 || f.op.toNat == 0x8

/-- Fourth clause of R72: the argument is `0x00` where `op` is that of `ABORT`, `MODEK`, `TXENC` or `POP`. -/
def OpFields.argClear (f : OpFields) : Bool :=
  f.arg.toNat == 0 || !([0x2, 0x3, 0x6, 0x9].contains f.op.toNat)

/-- A word that is an operation, that is, one that is not reserved (R72). -/
def OpFields.wellFormed (f : OpFields) : Bool :=
  f.opKnown && f.zeroClear && f.arg8Clear && f.argClear

end Sys2Proof
end

