-- ==== Sys2Proof/Decode.lean ====
section
/-! DEFINITION. The decoder of operation words, total and rejecting by name, and the encoder (30_encoding.md R68 to R72). -/

namespace Sys2Proof

/-- An operation with a byte argument: bit 8 must be 0 (R68). -/
def decodeWithByte (f : OpFields) (mk : Byte → Instr) : Except Reserved Instr :=
  if f.arg8 = 0 then .ok (mk f.arg) else .error .strayArg8

/-- An operation without argument: bits 8:0 must be 0 (R68). -/
def decodeBare (f : OpFields) (i : Instr) : Except Reserved Instr :=
  if f.arg8 = 0 then
    if f.arg = 0 then .ok i else .error .strayArg
  else .error .strayArg8

/-- The operation whose code is in `op` (R70), once bits 11:9 are known to be clear. -/
def decodeOp (f : OpFields) : Except Reserved Instr :=
  if f.op = 0x1 then decodeWithByte f .rxb
  else if f.op = 0x2 then decodeBare f .abort
  else if f.op = 0x3 then decodeBare f .modek
  else if f.op = 0x4 then decodeWithByte f .txnew
  else if f.op = 0x5 then decodeWithByte f .txapp
  else if f.op = 0x6 then decodeBare f .txenc
  else if f.op = 0x8 then .ok (.push (Direction.ofBit f.arg8) f.arg)
  else if f.op = 0x9 then decodeBare f .pop
  else .error .unknownOp

/-- The operation a word denotes, or why it is reserved (R70, R72). A function of the word alone (R71). -/
def decode (w : Word) : Except Reserved Instr :=
  if (OpFields.ofWord w).zero = 0 then decodeOp (OpFields.ofWord w) else .error .nonzeroZero

/-- The fields of an operation's word, from the patterns of R70. -/
def encodeFields : Instr → OpFields
  | .rxb b => ⟨0x1, 0, 0, b⟩
  | .abort => ⟨0x2, 0, 0, 0⟩
  | .modek => ⟨0x3, 0, 0, 0⟩
  | .txnew c => ⟨0x4, 0, 0, c⟩
  | .txapp b => ⟨0x5, 0, 0, b⟩
  | .txenc => ⟨0x6, 0, 0, 0⟩
  | .push d u => ⟨0x8, 0, d.toBit, u⟩
  | .pop => ⟨0x9, 0, 0, 0⟩

/-- The operation word of an operation (R70). -/
def encode (i : Instr) : Word :=
  (encodeFields i).toWord

/-- `match` of the operation's row of R70. -/
def rowMatch : Instr → Word
  | .rxb _ => 0x1000
  | .abort => 0x2000
  | .modek => 0x3000
  | .txnew _ => 0x4000
  | .txapp _ => 0x5000
  | .txenc => 0x6000
  | .push _ _ => 0x8000
  | .pop => 0x9000

/-- `mask` of the operation's row of R70. -/
def rowMask : Instr → Word
  | .rxb _ => 0xFF00
  | .abort => 0xFFFF
  | .modek => 0xFFFF
  | .txnew _ => 0xFF00
  | .txapp _ => 0xFF00
  | .txenc => 0xFFFF
  | .push _ _ => 0xFE00
  | .pop => 0xFFFF

/-- The decoder on a word numbered as opcode_table.json numbers its bits. An operation is one 16-bit word (R71): a set bit
above bit 15 is no operation. -/
def decodeTableWord (nbits w : Nat) : Option Instr :=
  if w % 2 ^ nbits < 2 ^ 16 then (decode (BitVec.ofNat 16 (w % 2 ^ nbits))).toOption else none

end Sys2Proof
end

