-- ==== Sys2Proof/Machine/State.lean ====
section
/-! DEFINITION. The state of the block: the fifteen items of 10_state.md R10, and three fields of the model's own (the inputs the
host has presented, the latest response, the count of resets). Plain data. -/

namespace Sys2Proof.Machine

/-- The state of the receive state machine (10_state.md R12). The eighth encoding is not representable (U7). -/
inductive RxState where
  | init
  | sync
  | lenLow
  | lenHigh
  | command
  | data
  | checksum
deriving DecidableEq, Repr

/-- The device session mode (10_state.md R28). -/
inductive Mode where
  | negotiating
  | keyboard
deriving DecidableEq, Repr

/-- A payload byte count, 0..128: `rx_cnt` and `tx_len` (10_state.md R17, R20; U7; log entry 6). -/
abbrev Count := Fin (Config.payloadCap + 1)

/-- A slot index, 0..9: `wr` and `rd` (10_state.md R23; U7; log entry 6). -/
abbrev SlotIndex := Fin Config.queueSlots

/-- `status` of a response (30_encoding.md R76). -/
inductive Status where
  | ok
  | illegal
  | faulted
  | capfault
deriving DecidableEq, Repr

/-- `result` of a response: what one receive step reports (30_encoding.md R76, 40_receive.md R97). -/
inductive RxResult where
  | receiving
  | received
  | invalidChecksum
deriving DecidableEq, Repr

/-- The response of an operation: the fields of the response word, and `wire` (30_encoding.md R76). -/
structure Response where
  status : Status
  result : RxResult
  oversize : Bool
  accepted : Bool
  empty : Bool
  event : KeyEvent
  wire : List Byte
deriving DecidableEq, Repr

/-- What the host can present to the block: an operation word on the operation port (R68), or an application of the reset
input (R79, R185). -/
inductive Input where
  | word (w : Word)
  | reset
deriving DecidableEq, Repr

/-- The state. First the fifteen items of R10, in its order; then the model's own fields. -/
structure State where
  /-- `rx_state` (R12, R13). -/
  rxState : RxState
  /-- `rx_len` (R14). -/
  rxLen : BitVec 16
  /-- `rx_cmd` (R15). -/
  rxCmd : Byte
  /-- `rx_csum` (R16). -/
  rxCsum : Byte
  /-- `rx_cnt` (R17). -/
  rxCnt : Count
  /-- `RXP`: the elements written since reset, indices strictly rising (R18, R40). -/
  rxp : List Host.Cell
  /-- `tx_cmd` (R19). -/
  txCmd : Byte
  /-- `tx_len` (R20). -/
  txLen : Count
  /-- `tx_csum` (R21). -/
  txCsum : Byte
  /-- `TXP`: the elements written since reset, indices strictly rising (R22, R40). -/
  txp : List Host.Cell
  /-- `wr` (R23). -/
  wr : SlotIndex
  /-- `rd` (R23). -/
  rd : SlotIndex
  /-- `SLOT`: the elements written since reset, indices strictly rising (R25, R40). -/
  slot : List (Nat × KeyEvent)
  /-- `mode` (R28). -/
  mode : Mode
  /-- `fault` (R29). -/
  fault : Bool
  /-- The model's own: what the host has presented and the block has not taken, oldest first (R51; log entry 1). -/
  pending : List Input
  /-- The model's own: the response of the latest operation since reset (R31, R76; log entry 2). -/
  resp : Option Response
  /-- The model's own: how often reset has been applied, the argument of the free values (R35, U3; log entry 5). -/
  resets : Nat
deriving DecidableEq, Repr

/-- Why the machine stops with a fault. -/
inductive Fault where
  /-- A `Data` step with `rx_cnt = 128` would store at `RXP[128]`, which does not exist (R40). Raised by `RXB` only, and in no
  reachable state (R34 I5, R42). Safe: the spec gives no step there. Log entry 7. -/
  | indexOutOfRange
deriving DecidableEq, Repr

/-- Why the machine refuses an instruction. -/
inductive Refusal where
  /-- The instruction has no meaning in the model. Raised by an arm of `exec` only; no arm raises it now. Safe. -/
  | notModelled (mnemonic : String)
deriving DecidableEq, Repr

/-- The machine right after reset (10_state.md R35, 70_reset_and_hazards.md R185): every register at the value of R10, no array
element written, nothing presented. -/
def State.reset : State :=
  { rxState := .init
    rxLen := 0
    rxCmd := 0
    rxCsum := 0
    rxCnt := 0
    rxp := []
    txCmd := 0
    txLen := 0
    txCsum := 0
    txp := []
    wr := 0
    rd := 0
    slot := []
    mode := .negotiating
    fault := false
    pending := []
    resp := none
    resets := 0 }

end Sys2Proof.Machine
end

