-- ==== Sys2Proof/Machine/Flags.lean ====
section
/-! DEFINITION. Everything the block computes: checksum arithmetic (30_encoding.md R64, 41_transmit.md R117), the queue's index
arithmetic and status outputs (10_state.md R24), and the response word (30_encoding.md R76). -/

namespace Sys2Proof.Machine

/-- `add8`: addition modulo 256, the carry discarded (R8, R117). -/
def add8 (a b : Byte) : Byte :=
  a + b

/-- `neg8`: two's-complement negation modulo 256 (R8, R117). -/
def neg8 (v : Byte) : Byte :=
  -v

/-- `sum8`: the sum of a byte sequence modulo 256 (R64). -/
def sum8 : List Byte → Byte
  | [] => 0
  | b :: bs => add8 b (sum8 bs)

/-- `csum8`: the checksum generator (R64, R111). -/
def csum8 (bs : List Byte) : Byte :=
  neg8 (sum8 bs)

/-- The length test of R93: `rx_len > 128`, unsigned. -/
def oversizeLength (len : BitVec 16) : Bool :=
  Config.payloadCap < len.toNat

/-- `inc10`: the next slot index, 9 followed by 0 (R8, R139). -/
def inc10 (i : SlotIndex) : SlotIndex :=
  ⟨(i.val + 1) % Config.queueSlots, Nat.mod_lt _ (by decide)⟩

/-- `q_count`: the number of events held, `(wr - rd) mod 10` (R24). -/
def State.qCount (s : State) : Nat :=
  (s.wr.val + Config.queueSlots - s.rd.val) % Config.queueSlots

/-- `q_empty` (R24). -/
def State.qEmpty (s : State) : Bool :=
  s.wr == s.rd

/-- `q_full` (R24). -/
def State.qFull (s : State) : Bool :=
  inc10 s.wr == s.rd

/-- The response with every field 0: `OK`, `Receiving`, no bit set, event 0, no wire bytes (R76). -/
def Response.blank : Response :=
  { status := .ok
    result := .receiving
    oversize := false
    accepted := false
    empty := false
    event := ⟨.down, 0⟩
    wire := [] }

/-- The encoding of `status` (R76, D11). -/
def Status.toBits : Status → BitVec 2
  | .ok => 0
  | .illegal => 1
  | .faulted => 2
  | .capfault => 3

/-- The encoding of `result` (R76, D11). -/
def RxResult.toBits : RxResult → BitVec 2
  | .receiving => 0
  | .received => 1
  | .invalidChecksum => 2

/-- The response word `R` of a response (R76): status 15:14, result 13:12, oversize 11, accepted 10, empty 9, event 8:0. -/
def Response.word (r : Response) : Word :=
  r.status.toBits ++ r.result.toBits ++ BitVec.ofBool r.oversize ++ BitVec.ofBool r.accepted ++ BitVec.ofBool r.empty
    ++ r.event.toBits

/-- The status output `rx_state` as a number (R12, D11). -/
def RxState.toBits : RxState → BitVec 3
  | .init => 0
  | .sync => 1
  | .lenLow => 2
  | .lenHigh => 3
  | .command => 4
  | .data => 5
  | .checksum => 6

/-- The status output `mode` as a number (R28, D11). -/
def Mode.toBit : Mode → BitVec 1
  | .negotiating => 0
  | .keyboard => 1

end Sys2Proof.Machine
end

