-- ==== Sys2Proof/Machine/Ops.lean ====
section
/-! DEFINITION. The shared operations: the array spaces (20_memory.md), the response, the two refusals and the capacity fault
(60_exceptions.md R166 to R168), reset (70_reset_and_hazards.md R185), and taking the next presented input. -/

namespace Sys2Proof.Machine

/-! ### Array spaces -/

/-- The element written at an index, if any has been since reset. An unlisted index has no value of its own (R188). -/
def Memory.read {α : Type} : List (Nat × α) → Nat → Option α
  | [], _ => none
  | (k, v) :: m, a => if k = a then some v else Memory.read m a

/-- `MemWrite` (R8): one element, indices kept strictly rising. -/
def Memory.write {α : Type} : List (Nat × α) → Nat → α → List (Nat × α)
  | [], a, v => [(a, v)]
  | (k, u) :: m, a, v =>
    if a < k then (a, v) :: (k, u) :: m
    else if a = k then (a, v) :: m
    else (k, u) :: Memory.write m a v

/-- Indices strictly rising, each at least `low` and below `size`. -/
def Memory.wfFrom {α : Type} (size : Nat) : Nat → List (Nat × α) → Bool
  | _, [] => true
  | low, (k, _) :: m => decide (low ≤ k) && decide (k < size) && Memory.wfFrom size (k + 1) m

/-- The canonical form of an array of `size` elements: indices strictly rising and in range (R40). No entry can equal what
an unlisted index reads as, since that is no value. -/
def Memory.wf {α : Type} (size : Nat) (m : List (Nat × α)) : Bool :=
  Memory.wfFrom size 0 m

/-- `MemRead(RXP, i)`: the byte last written, or the free value of an element not written since reset (R18, U3). -/
def State.rxpByte (s : State) (i : Nat) : Byte :=
  (Memory.read s.rxp i).getD (Config.initialRxp s.resets i)

/-- `MemRead(TXP, i)` (R22, U3). -/
def State.txpByte (s : State) (i : Nat) : Byte :=
  (Memory.read s.txp i).getD (Config.initialTxp s.resets i)

/-- `MemRead(SLOT, i)` (R25, U3). -/
def State.slotEvent (s : State) (i : Nat) : KeyEvent :=
  (Memory.read s.slot i).getD (KeyEvent.ofBits (Config.initialSlot s.resets i))

/-- `[TXP[0], …, TXP[tx_len-1]]`: the transmit payload, in wire order (R45, R114). -/
def State.txPayload (s : State) : List Byte :=
  (List.range s.txLen.val).map s.txpByte

/-- `[RXP[0], …, RXP[rx_len-1]]`: the payload of the received frame, in wire order (R43, R45). -/
def State.rxPayload (s : State) : List Byte :=
  (List.range s.rxLen.toNat).map s.rxpByte

/-- The frame read-out `(rx_cmd, rx_len, RXP[0..rx_len-1], rx_csum)` (R43). There is none while `rx_len` is an oversize length,
whose bytes `RXP` does not have. Log entry 11. -/
def State.frameReadOut (s : State) : Option (Byte × BitVec 16 × List Byte × Byte) :=
  if oversizeLength s.rxLen then none else some (s.rxCmd, s.rxLen, s.rxPayload, s.rxCsum)

/-! ### Responses and refusals -/

/-- The operation's response replaces the previous one (R31, R76; log entry 2). -/
def State.respond (s : State) (r : Response) : State :=
  { s with resp := some r }

/-- A response that says its status only, every other field 0 and `wire` empty (R76). -/
def Response.ofStatus (st : Status) : Response :=
  { Response.blank with status := st }

/-- The refusal of any operation while `fault = 1`: no state changes, `status = FAULTED` (R167). -/
def refuseFaulted (s : State) : Host.Outcome State Fault Refusal :=
  .next (s.respond (Response.ofStatus .faulted))

/-- The first check of every operation (R171): refused while `fault = 1`, else the operation's own rule. -/
def whenRunning (s : State) (rule : State → Host.Outcome State Fault Refusal) : Host.Outcome State Fault Refusal :=
  if s.fault then refuseFaulted s else rule s

/-- The refusal of a reserved word: no state changes, `status = ILLEGAL`; `FAULTED` is checked first (R73, R168, R171; log entry 8). -/
def refuseReserved (s : State) : Host.Outcome State Fault Refusal :=
  whenRunning s fun s => .next (s.respond (Response.ofStatus .illegal))

/-- `raise CapacityFault`: `fault <- 1`, `status = CAPFAULT`, nothing else changes (R166). There is no handler, no saved state and
no return but reset (R172, R173). Log entry 9. -/
def raiseCapacityFault (s : State) : Host.Outcome State Fault Refusal :=
  .next ({ s with fault := true }.respond (Response.ofStatus .capfault))

/-! ### Reset and the presented inputs -/

/-- Reset (R185): every register at its reset value, every array element unspecified again. What the host has presented after
it stays presented (log entry 4). -/
def applyReset (s : State) : State :=
  { State.reset with pending := s.pending, resets := s.resets + 1 }

/-- The oldest presented input, and the state without it (R51). -/
def takeInput (s : State) : Option (Input × State) :=
  match s.pending with
  | [] => none
  | x :: rest => some (x, { s with pending := rest })

/-- The state with one more input presented, to be taken next. -/
def present (x : Input) (s : State) : State :=
  { s with pending := x :: s.pending }

/-- With nothing presented the block does nothing (R187, R199; log entry 3). -/
def idle (s : State) : Host.Outcome State Fault Refusal :=
  .next s

end Sys2Proof.Machine
end

