-- ==== Sys2Proof/Machine/Queue.lean ====
section
/-! DEFINITION. The key event queue: `PUSH`, `POP` (42_queue.md). -/

namespace Sys2Proof.Machine

/-- `PUSH d,u`: dropped in `Negotiating` (R133) or when full (R134), else stored (R132). -/
def execPush (d : Direction) (u : Byte) (s : State) : Host.Outcome State Fault Refusal :=
  whenRunning s fun s =>
    if s.mode ≠ .keyboard then .next (s.respond Response.blank)
    else if s.qFull then .next (s.respond Response.blank)
    else
      .next ({ s with
        slot := Memory.write s.slot s.wr.val ⟨d, u⟩
        wr := inc10 s.wr }.respond { Response.blank with accepted := true })

/-- `POP`: the oldest event by value, in either mode; the slot is not cleared (R136, R137). -/
def execPop (s : State) : Host.Outcome State Fault Refusal :=
  whenRunning s fun s =>
    if s.qEmpty then .next (s.respond { Response.blank with empty := true })
    else
      .next ({ s with rd := inc10 s.rd }.respond { Response.blank with event := s.slotEvent s.rd.val })

end Sys2Proof.Machine
end

