-- ==== Sys2Proof/Machine/Receive.lean ====
section
/-! DEFINITION. The receive state machine: `RXB` (40_receive.md), one definition per arm of R86. -/

namespace Sys2Proof.Machine

/-- The prelude of the `Init` arm: the pending frame is cleared, and the byte is then handled by the `Sync` arm (R87). -/
def rxClear (s : State) : State :=
  { s with rxState := .sync, rxLen := 0, rxCsum := 0, rxCmd := 0 }

/-- The `Sync` arm: hunt for the sync byte (R88). -/
def rxSyncArm (b : Byte) (s : State) : Host.Outcome State Fault Refusal :=
  .next ({ s with rxState := if b = Config.sync then .lenLow else .sync }.respond Response.blank)

/-- The `LenLow` arm (R92). -/
def rxLenLowArm (b : Byte) (s : State) : Host.Outcome State Fault Refusal :=
  .next ({ s with
    rxLen := setLenLow s.rxLen b
    rxCsum := add8 s.rxCsum b
    rxState := .lenHigh }.respond Response.blank)

/-- The `LenHigh` arm: a declared length above 128 ends the frame (R93). -/
def rxLenHighArm (b : Byte) (s : State) : Host.Outcome State Fault Refusal :=
  .next ({ s with
    rxLen := setLenHigh s.rxLen b
    rxCsum := add8 s.rxCsum b
    rxState := if oversizeLength (setLenHigh s.rxLen b) then .init else .command }.respond
      { Response.blank with oversize := oversizeLength (setLenHigh s.rxLen b) })

/-- The `Command` arm (R94). -/
def rxCommandArm (b : Byte) (s : State) : Host.Outcome State Fault Refusal :=
  .next ({ s with
    rxCmd := b
    rxCsum := add8 s.rxCsum b
    rxCnt := if s.rxLen = 0 then s.rxCnt else 0
    rxState := if s.rxLen = 0 then .checksum else .data }.respond Response.blank)

/-- The `Data` arm (R95). `RXP` has no element 128 (R40): there the model stops; log entry 7. -/
def rxDataArm (b : Byte) (s : State) : Host.Outcome State Fault Refusal :=
  if room : s.rxCnt.val < Config.payloadCap then
    .next ({ s with
      rxp := Memory.write s.rxp s.rxCnt.val b
      rxCsum := add8 s.rxCsum b
      rxCnt := ⟨s.rxCnt.val + 1, Nat.succ_lt_succ room⟩
      rxState := if s.rxCnt.val + 1 = s.rxLen.toNat then .checksum else .data }.respond Response.blank)
  else .fault .indexOutOfRange

/-- The `Checksum` arm: the computed checksum stays in `rx_csum`, the received byte is not stored (R96). -/
def rxChecksumArm (b : Byte) (s : State) : Host.Outcome State Fault Refusal :=
  .next ({ s with
    rxCsum := neg8 s.rxCsum
    rxState := .init }.respond
      { Response.blank with result := if neg8 s.rxCsum = b then .received else .invalidChecksum })

/-- The arm that handles a byte (R86, R98). -/
def rxArm (b : Byte) (s : State) : Host.Outcome State Fault Refusal :=
  match s.rxState with
  | .init => rxSyncArm b (rxClear s)
  | .sync => rxSyncArm b s
  | .lenLow => rxLenLowArm b s
  | .lenHigh => rxLenHighArm b s
  | .command => rxCommandArm b s
  | .data => rxDataArm b s
  | .checksum => rxChecksumArm b s

/-- `RXB b` (R85, R86). -/
def execRxb (b : Byte) (s : State) : Host.Outcome State Fault Refusal :=
  whenRunning s (rxArm b)

end Sys2Proof.Machine
end

