-- ==== Sys2Proof/Machine/Session.lean ====
section
/-! DEFINITION. Session control: `MODEK`, `ABORT` (43_session.md). -/

namespace Sys2Proof.Machine

/-- `MODEK` (R151). The condition of R152 is the host's duty. -/
def execModek (s : State) : Host.Outcome State Fault Refusal :=
  whenRunning s fun s => .next ({ s with mode := .keyboard }.respond Response.blank)

/-- `ABORT`: `rx_state` and `mode` only (R153, R154). -/
def execAbort (s : State) : Host.Outcome State Fault Refusal :=
  whenRunning s fun s => .next ({ s with rxState := .init, mode := .negotiating }.respond Response.blank)

end Sys2Proof.Machine
end

