-- ==== Sys2Proof/Machine/Transmit.lean ====
section
/-! DEFINITION. The transmit frame and its encoder: `TXNEW`, `TXAPP`, `TXENC` (41_transmit.md). -/

namespace Sys2Proof.Machine

/-- `TXNEW c` (R112). -/
def execTxnew (c : Byte) (s : State) : Host.Outcome State Fault Refusal :=
  whenRunning s fun s => .next ({ s with txCmd := c, txLen := 0 }.respond Response.blank)

/-- `TXAPP b`: the capacity check comes before the write (R113, R166). -/
def execTxapp (b : Byte) (s : State) : Host.Outcome State Fault Refusal :=
  whenRunning s fun s =>
    if room : s.txLen.val < Config.payloadCap then
      .next ({ s with
        txp := Memory.write s.txp s.txLen.val b
        txLen := ⟨s.txLen.val + 1, Nat.succ_lt_succ room⟩ }.respond Response.blank)
    else raiseCapacityFault s

/-- The bytes of a frame that its checksum is taken over: `len_lo`, `len_hi`, command, payload (R64). -/
def summedBytes (c : Byte) (p : List Byte) : List Byte :=
  lenLow p.length :: lenHigh p.length :: c :: p

/-- The wire frame with command `c`, payload `p` and last byte `k` (R60). -/
def wireBytes (c : Byte) (p : List Byte) (k : Byte) : List Byte :=
  Config.sync :: summedBytes c p ++ [k]

/-- `TXENC`: the whole wire buffer in one step; only `tx_csum` is written (R114). -/
def execTxenc (s : State) : Host.Outcome State Fault Refusal :=
  whenRunning s fun s =>
    let csum := csum8 (summedBytes s.txCmd s.txPayload)
    .next ({ s with txCsum := csum }.respond { Response.blank with wire := wireBytes s.txCmd s.txPayload csum })

end Sys2Proof.Machine
end

