-- ==== Sys2Proof/Machine/Dispatch.lean ====
section
/-! DEFINITION. The meaning of each operation, one arm per row of opcode_table.json. -/

namespace Sys2Proof.Machine

def exec (i : Instr) (s : State) : Host.Outcome State Fault Refusal :=
  match i with
  | .rxb b => Sys2Proof.Machine.execRxb b s
  | .abort => Sys2Proof.Machine.execAbort s
  | .modek => Sys2Proof.Machine.execModek s
  | .txnew c => Sys2Proof.Machine.execTxnew c s
  | .txapp b => Sys2Proof.Machine.execTxapp b s
  | .txenc => Sys2Proof.Machine.execTxenc s
  | .push d u => Sys2Proof.Machine.execPush d u s
  | .pop => Sys2Proof.Machine.execPop s

end Sys2Proof.Machine
end

