-- ==== Sys2Proof/Machine/Step.lean ====
section
/-! DEFINITION. One step: the block takes the oldest presented input and carries it out (20_memory.md R51, R52; 60_exceptions.md
R171). -/

namespace Sys2Proof.Machine

/-- One step. An operation word is decoded by itself (R71) and executed, or refused as reserved; a reset input resets. -/
def step (s : State) : Host.Outcome State Fault Refusal :=
  match takeInput s with
  | none => idle s
  | some (.reset, t) => .next (applyReset t)
  | some (.word w, t) =>
    match decode w with
    | .ok i => exec i t
    | .error _ => refuseReserved t

/-- The operation word presented to be taken next. The block stores no program (R56): presenting a word is all it takes to have
the next step run it (log entry 1). -/
def State.withFetchWord (s : State) (nbits w : Nat) : State :=
  present (.word (BitVec.ofNat 16 (w % 2 ^ nbits))) s

end Sys2Proof.Machine
end

