-- ==== Sys2Proof/Safety.lean ====
section
/-! DEFINITION. The terms that claims about the block use: the invariants of every reachable state (10_state.md R34), what the
groups of state are, sequences of inputs and their responses, valid frames, and the events a queue holds. -/

namespace Sys2Proof.Machine

/-! ### Invariants -/

/-- The invariants of every reachable state. The first nine are I1 to I9 of R34; then the canonical form of the arrays (R40) and
that every element a rule reads has been written since reset (R18, R22, R25, R188). -/
structure StateInv (s : State) : Prop where
  /-- I1 -/
  stateInRange : s.rxState.toBits.toNat ≤ 6
  /-- I2 -/
  indicesInRange : s.wr.val ≤ 9 ∧ s.rd.val ≤ 9
  /-- I3 -/
  txLenBounded : s.txLen.val ≤ 128
  /-- I4 -/
  rxLenBounded : s.rxState = .command ∨ s.rxState = .data ∨ s.rxState = .checksum → s.rxLen.toNat ≤ 128
  /-- I5 -/
  rxCntBelowLen : s.rxState = .data → s.rxCnt.val < s.rxLen.toNat
  /-- I6 -/
  headerCleared : s.rxState = .sync ∨ s.rxState = .lenLow → s.rxLen = 0 ∧ s.rxCmd = 0 ∧ s.rxCsum = 0
  /-- I7 -/
  lowByteHeld : s.rxState = .lenHigh → s.rxLen.toNat ≤ 255 ∧ s.rxCmd = 0 ∧ s.rxCsum = s.rxLen.extractLsb' 0 8
  /-- I8 -/
  lengthSummed : s.rxState = .command →
    s.rxCmd = 0 ∧ s.rxCsum = add8 (s.rxLen.extractLsb' 0 8) (s.rxLen.extractLsb' 8 8)
  /-- I9 -/
  faultOnlyWhenFull : s.fault = true → s.txLen.val = 128
  /-- `RXP` is in canonical form. -/
  rxpForm : Memory.wf 128 s.rxp = true
  /-- `TXP` is in canonical form. -/
  txpForm : Memory.wf 128 s.txp = true
  /-- `SLOT` is in canonical form. -/
  slotForm : Memory.wf 10 s.slot = true
  /-- The payload bytes received so far have been written (R18). -/
  rxpWritten : s.rxState = .data → ∀ i, i < s.rxCnt.val → (Memory.read s.rxp i).isSome = true
  /-- The payload of a frame whose checksum is awaited has been written whole (R18). -/
  rxpComplete : s.rxState = .checksum → ∀ i, i < s.rxLen.toNat → (Memory.read s.rxp i).isSome = true
  /-- The transmit payload has been written (R22). -/
  txpWritten : ∀ i, i < s.txLen.val → (Memory.read s.txp i).isSome = true
  /-- Every held event has been written (R25). -/
  slotWritten : ∀ k, k < s.qCount → (Memory.read s.slot ((s.rd.val + k) % 10)).isSome = true

/-! ### Groups of state, for frames -/

/-- The receive registers and every byte of `RXP` are the same. -/
def SameReceive (s t : State) : Prop :=
  t.rxState = s.rxState ∧ t.rxLen = s.rxLen ∧ t.rxCmd = s.rxCmd ∧ t.rxCsum = s.rxCsum ∧ t.rxCnt = s.rxCnt ∧
    ∀ i, t.rxpByte i = s.rxpByte i

/-- The transmit registers and every byte of `TXP` are the same. -/
def SameTransmit (s t : State) : Prop :=
  t.txCmd = s.txCmd ∧ t.txLen = s.txLen ∧ t.txCsum = s.txCsum ∧ ∀ i, t.txpByte i = s.txpByte i

/-- The queue indices and every slot are the same. -/
def SameQueue (s t : State) : Prop :=
  t.wr = s.wr ∧ t.rd = s.rd ∧ ∀ i, t.slotEvent i = s.slotEvent i

/-- The session mode and the fault flag are the same. -/
def SameControl (s t : State) : Prop :=
  t.mode = s.mode ∧ t.fault = s.fault

/-- The inputs still presented and the count of resets are the same: no operation touches them. -/
def SameOutside (s t : State) : Prop :=
  t.pending = s.pending ∧ t.resets = s.resets

/-- Every element that the first array lists, the second lists with the same value; at the other indices the second may list any
value. -/
def Memory.Extends {α : Type} (m n : List (Nat × α)) : Prop :=
  ∀ i v, Memory.read m i = some v → Memory.read n i = some v

/-- The second state is the first but for the contents of elements that the first has not written since reset: some may be given
any value, and the free contents of the rest may be others (R188; log entry 5). -/
def SameButUnwritten (s u : State) : Prop :=
  u = { s with rxp := u.rxp, txp := u.txp, slot := u.slot, resets := u.resets } ∧
    Memory.Extends s.rxp u.rxp ∧ Memory.Extends s.txp u.txp ∧ Memory.Extends s.slot u.slot

/-! ### Sequences of inputs -/

/-- Present inputs one after another, each taken by one step, and collect the response after each (R52, R75). There is no answer
where a step stops. -/
def feed : List Input → State → Option (State × List (Option Response))
  | [], s => some (s, [])
  | x :: xs, s =>
    match step (present x s) with
    | .next t => (feed xs t).map fun p => (p.1, t.resp :: p.2)
    | .fault _ => none
    | .refused _ => none

/-- The input that is an operation's word. -/
def opInput (i : Instr) : Input :=
  .word (encode i)

/-- `RXS`: one `RXB` for each byte (R75). -/
def rxs (bytes : List Byte) : List Input :=
  bytes.map fun b => opInput (.rxb b)

/-- `TXFRAME c, p` (R75). -/
def txframe (c : Byte) (p : List Byte) : List Input :=
  opInput (.txnew c) :: p.map (fun b => opInput (.txapp b)) ++ [opInput .txenc]

/-! ### Frames and held events -/

/-- The payload length that bytes 1 and 2 of a frame declare (R63). -/
def declaredLen (f : List Byte) : Nat :=
  (f.getD 1 0).toNat + 256 * (f.getD 2 0).toNat

/-- The command byte of a frame (R60). -/
def frameCommand (f : List Byte) : Byte :=
  f.getD 3 0

/-- The payload of a frame: what stands between the command byte and the last byte (R60). -/
def framePayload (f : List Byte) : List Byte :=
  (f.drop 4).dropLast

/-- A valid frame (R61): sync byte, length at most 128, exactly `5 + len` bytes, and the last byte the checksum of bytes
1 .. 3+len. -/
def ValidFrame (f : List Byte) : Prop :=
  f.head? = some 0x3A ∧ declaredLen f ≤ 128 ∧ f.length = 5 + declaredLen f ∧
    f.getLast? = some (csum8 (f.drop 1).dropLast)

/-- The receiver hunts for a sync byte: it is in `Init` or `Sync`, and the block is not faulted (R90, R99). -/
def Hunting (s : State) : Prop :=
  s.fault = false ∧ (s.rxState = .init ∨ s.rxState = .sync)

/-- The events a queue holds, oldest first (R24). -/
def State.held (s : State) : List KeyEvent :=
  (List.range s.qCount).map fun k => s.slotEvent ((s.rd.val + k) % 10)

/-- The response of an `RXB` step that completes a good frame (R76, R97). -/
def receivedResponse : Response :=
  { Response.blank with result := .received }

/-- The response of an `RXB` step that finds a wrong checksum (R76, R97). -/
def invalidResponse : Response :=
  { Response.blank with result := .invalidChecksum }

/-- The events of the accepted pushes of a sequence of operations, given their responses, in order (R138). -/
def acceptedEvents : List Instr → List (Option Response) → List KeyEvent
  | .push d u :: is, some r :: rs => if r.accepted then ⟨d, u⟩ :: acceptedEvents is rs else acceptedEvents is rs
  | _ :: is, _ :: rs => acceptedEvents is rs
  | _, _ => []

/-- The events returned by the successful pops of a sequence of operations, given their responses, in order (R138). -/
def poppedEvents : List Instr → List (Option Response) → List KeyEvent
  | .pop :: is, some r :: rs =>
    if r.status = .ok ∧ r.empty = false then r.event :: poppedEvents is rs else poppedEvents is rs
  | _ :: is, _ :: rs => poppedEvents is rs
  | _, _ => []

end Sys2Proof.Machine
end

