-- ==== Sys2Proof/Certificates/Slice0/Obligations.lean ====
section
/-! DEFINITION. The statements for the provers, each formalising or following from rules of spec/ (OBLIGATIONS.json cites them). -/

open Sys2Proof Sys2Proof.Machine

/-! ### Encodings -/

/-- Decoding an operation's word gives the operation back, whatever its operand (R70, R71). -/
def Obligations.DecodeInvertsEncode : Prop :=
  ∀ i : Instr, decode (encode i) = .ok i

/-- A word that is not reserved is the word of the operation it denotes: each operation has one word (R70). -/
def Obligations.EncodeInvertsDecode : Prop :=
  ∀ (w : Word) (i : Instr), decode w = .ok i → encode i = w

/-- The operation map of R70, row by row: match, mask, and the operand's bits (R69). -/
def Obligations.DecodeFollowsOperationMap : Prop :=
  ∀ w : Word,
    (∀ b, decode w = .ok (.rxb b) ↔ w &&& 0xFF00 = 0x1000 ∧ b = w.extractLsb' 0 8) ∧
    (decode w = .ok .abort ↔ w &&& 0xFFFF = 0x2000) ∧
    (decode w = .ok .modek ↔ w &&& 0xFFFF = 0x3000) ∧
    (∀ c, decode w = .ok (.txnew c) ↔ w &&& 0xFF00 = 0x4000 ∧ c = w.extractLsb' 0 8) ∧
    (∀ b, decode w = .ok (.txapp b) ↔ w &&& 0xFF00 = 0x5000 ∧ b = w.extractLsb' 0 8) ∧
    (decode w = .ok .txenc ↔ w &&& 0xFFFF = 0x6000) ∧
    (∀ d u, decode w = .ok (.push d u) ↔ w &&& 0xFE00 = 0x8000 ∧ KeyEvent.toBits ⟨d, u⟩ = w.extractLsb' 0 9) ∧
    (decode w = .ok .pop ↔ w &&& 0xFFFF = 0x9000)

/-- The decoder refuses exactly the words that R72 calls reserved: an unknown `op`, bits 11:9 not clear, bit 8 set outside
`PUSH`, or argument bits set in an operation without argument. -/
def Obligations.ReservedWordsAreTheFourClauses : Prop :=
  ∀ w : Word, (∃ r, decode w = .error r) ↔
    (w.extractLsb' 12 4).toNat ∈ [0x0, 0x7, 0xA, 0xB, 0xC, 0xD, 0xE, 0xF] ∨
    w.extractLsb' 9 3 ≠ 0 ∨
    (w.extractLsb' 8 1 = 1 ∧ w.extractLsb' 12 4 ≠ 0x8) ∨
    (w.extractLsb' 0 8 ≠ 0 ∧ (w.extractLsb' 12 4).toNat ∈ [0x2, 0x3, 0x6, 0x9])

/-- The example words of R74 decode to the operations beside them. -/
def Obligations.TraceSyntaxWordsDecode : Prop :=
  decode 0x103A = .ok (.rxb 0x3A) ∧ decode 0x2000 = .ok .abort ∧ decode 0x3000 = .ok .modek ∧
    decode 0x4020 = .ok (.txnew 0x20) ∧ decode 0x5007 = .ok (.txapp 0x07) ∧ decode 0x6000 = .ok .txenc ∧
    decode 0x8004 = .ok (.push .down 0x04) ∧ decode 0x8104 = .ok (.push .up 0x04) ∧ decode 0x9000 = .ok .pop

/-- The 9-bit layout of a key event (R27): bit 8 the direction (0 `Down`, 1 `Up`), bits 7:0 the usage code, none lost. -/
def Obligations.KeyEventLayout : Prop :=
  (∀ e : KeyEvent, (e.toBits.extractLsb' 8 1 = 0 ↔ e.direction = .down) ∧ (e.toBits.extractLsb' 8 1 = 1 ↔ e.direction = .up) ∧
    e.toBits.extractLsb' 0 8 = e.usage ∧ KeyEvent.ofBits e.toBits = e) ∧
  ∀ v : BitVec 9, (KeyEvent.ofBits v).toBits = v

/-- The layout of the response word and the numbers in its fields (R76), the eleven words that occur (R77), and the numbers on the
status outputs `rx_state` (R12, R78) and `mode` (R28, R78). -/
def Obligations.ResponseWordLayout : Prop :=
  (∀ r : Response,
    r.word.extractLsb' 14 2 = r.status.toBits ∧ r.word.extractLsb' 12 2 = r.result.toBits ∧
    r.word.extractLsb' 11 1 = BitVec.ofBool r.oversize ∧ r.word.extractLsb' 10 1 = BitVec.ofBool r.accepted ∧
    r.word.extractLsb' 9 1 = BitVec.ofBool r.empty ∧ r.word.extractLsb' 0 9 = r.event.toBits) ∧
  (Status.ok.toBits = 0 ∧ Status.illegal.toBits = 1 ∧ Status.faulted.toBits = 2 ∧ Status.capfault.toBits = 3) ∧
  (RxResult.receiving.toBits = 0 ∧ RxResult.received.toBits = 1 ∧ RxResult.invalidChecksum.toBits = 2) ∧
  ((∀ wire, { Response.blank with wire := wire }.word = 0x0000) ∧
    { Response.blank with result := .received }.word = 0x1000 ∧
    { Response.blank with result := .invalidChecksum }.word = 0x2000 ∧
    { Response.blank with oversize := true }.word = 0x0800 ∧
    { Response.blank with accepted := true }.word = 0x0400 ∧
    { Response.blank with empty := true }.word = 0x0200 ∧
    { Response.blank with event := ⟨.down, 0x04⟩ }.word = 0x0004 ∧
    { Response.blank with event := ⟨.up, 0x05⟩ }.word = 0x0105 ∧
    { Response.blank with status := .illegal }.word = 0x4000 ∧
    { Response.blank with status := .faulted }.word = 0x8000 ∧
    { Response.blank with status := .capfault }.word = 0xC000) ∧
  (RxState.init.toBits = 0 ∧ RxState.sync.toBits = 1 ∧ RxState.lenLow.toBits = 2 ∧ RxState.lenHigh.toBits = 3 ∧
    RxState.command.toBits = 4 ∧ RxState.data.toBits = 5 ∧ RxState.checksum.toBits = 6) ∧
  (Mode.negotiating.toBit = 0 ∧ Mode.keyboard.toBit = 1)

/-! ### Steps, reset, refusals -/

/-- A presented word that denotes an operation is taken and executed, on the state without it (R51, R71; log entry 1). -/
def Obligations.StepRunsPresentedOperation : Prop :=
  ∀ (s : State) (w : Word) (rest : List Input) (i : Instr),
    s.pending = .word w :: rest → decode w = .ok i → step s = exec i { s with pending := rest }

/-- With nothing presented the block does nothing (R187; the model's step for it is log entry 3). -/
def Obligations.StepIdlesWithoutInput : Prop :=
  ∀ s : State, s.pending = [] → step s = .next s

/-- A reserved word is refused with `ILLEGAL`, or `FAULTED` while `fault = 1`, and changes no state of the block (R73). -/
def Obligations.ReservedWordRefused : Prop :=
  ∀ (s : State) (w : Word) (rest : List Input) (r : Reserved),
    s.pending = .word w :: rest → decode w = .error r →
      step s = .next { s with
        pending := rest
        resp := some { Response.blank with status := if s.fault = true then .faulted else .illegal } }

/-- While `fault = 1` every operation and every word is refused, and only reset clears the flag (R167). -/
def Obligations.FaultedBlockRefusesEverything : Prop :=
  ∀ s : State, s.fault = true →
    (∀ i : Instr, exec i s = .next { s with resp := some { Response.blank with status := .faulted } }) ∧
    (∀ (w : Word) (rest : List Input), s.pending = .word w :: rest →
      step s = .next { s with pending := rest, resp := some { Response.blank with status := .faulted } }) ∧
    (∀ t, step s = .next t → t.fault = false → ∃ rest, s.pending = .reset :: rest)

/-- Reset puts every register at its reset value, from every state (R185). That inputs behind it stay presented, that there is no
response after it, and that the arrays list no element are the model's choices (log entries 4, 2 and 5). -/
def Obligations.ResetPutsRegistersAtResetValues : Prop :=
  ∀ (s : State) (rest : List Input), s.pending = .reset :: rest →
    ∃ t, step s = .next t ∧ t.rxState = .init ∧ t.rxLen = 0 ∧ t.rxCmd = 0 ∧ t.rxCsum = 0 ∧ t.rxCnt = 0 ∧
      t.txCmd = 0 ∧ t.txLen = 0 ∧ t.txCsum = 0 ∧ t.wr = 0 ∧ t.rd = 0 ∧ t.mode = .negotiating ∧ t.fault = false ∧
      t.pending = rest ∧ t.resp = none ∧
      ∀ i, Memory.read t.rxp i = none ∧ Memory.read t.txp i = none ∧ Memory.read t.slot i = none

/-- The first operations after reset (R187). -/
def Obligations.FirstOperationsAfterReset : Prop :=
  step State.reset = .next State.reset ∧
    (∀ b, exec (.rxb b) State.reset = .next { State.reset with
      rxState := if b = 0x3A then .lenLow else .sync
      resp := some Response.blank }) ∧
    (∀ d u, exec (.push d u) State.reset = .next { State.reset with resp := some Response.blank }) ∧
    exec .pop State.reset = .next { State.reset with resp := some { Response.blank with empty := true } } ∧
    exec .txenc State.reset =
      .next { State.reset with resp := some { Response.blank with wire := [0x3A, 0x00, 0x00, 0x00, 0x00] } }

/-- Each response field is produced by its own operations only, and a refusal carries nothing but its status (R76). -/
def Obligations.ResponseFieldsBelongToTheirOperations : Prop :=
  ∀ (i : Instr) (s t : State), exec i s = .next t → ∃ r, t.resp = some r ∧
    (r.status ≠ .ok → r = { Response.blank with status := r.status }) ∧
    r.status ≠ .illegal ∧
    (r.status = .faulted ↔ s.fault = true) ∧
    (r.status = .capfault → ∃ b, i = .txapp b) ∧
    ((r.result ≠ .receiving ∨ r.oversize = true) → ∃ b, i = .rxb b) ∧
    (r.accepted = true → ∃ d u, i = .push d u) ∧
    ((r.empty = true ∨ r.event ≠ ⟨.down, 0⟩) → i = .pop) ∧
    (r.empty = true → r.event = ⟨.down, 0⟩) ∧
    (r.wire ≠ [] → i = .txenc)

/-- The capacity fault: what it does, and that nothing else sets `fault` (R166). -/
def Obligations.CapacityFaultEffectAndOnlyCause : Prop :=
  (∀ (b : Byte) (s : State), s.fault = false → s.txLen.val = 128 →
    exec (.txapp b) s =
      .next { s with fault := true, resp := some { Response.blank with status := .capfault } }) ∧
  (∀ s t : State, step s = .next t → s.fault = false → t.fault = true →
    ∃ w rest b, s.pending = .word w :: rest ∧ decode w = .ok (.txapp b) ∧ s.txLen.val = 128)

/-! ### RXB -/

/-- The `Init` arm clears the pending frame and handles the same byte as the `Sync` arm does (R87). -/
def Obligations.RxbInitArm : Prop :=
  ∀ (b : Byte) (s : State), s.fault = false → s.rxState = .init →
    exec (.rxb b) s = .next { s with
      rxLen := 0
      rxCsum := 0
      rxCmd := 0
      rxState := if b = 0x3A then .lenLow else .sync
      resp := some Response.blank }

/-- The `Sync` arm: the byte is compared with `0x3A` and discarded (R88). -/
def Obligations.RxbSyncArm : Prop :=
  ∀ (b : Byte) (s : State), s.fault = false → s.rxState = .sync →
    exec (.rxb b) s = .next { s with
      rxState := if b = 0x3A then .lenLow else .sync
      resp := some Response.blank }

/-- The `LenLow` arm, in the states R34 I6 allows: the length and the sum are the byte (R92). -/
def Obligations.RxbLenLowArm : Prop :=
  ∀ (b : Byte) (s : State), StateInv s → s.fault = false → s.rxState = .lenLow →
    exec (.rxb b) s = .next { s with
      rxLen := BitVec.ofNat 16 b.toNat
      rxCsum := b
      rxState := .lenHigh
      resp := some Response.blank }

/-- The `LenHigh` arm: a declared length above 128 abandons the frame, whatever its low byte is (R93). -/
def Obligations.RxbLenHighArm : Prop :=
  ∀ (b : Byte) (s : State), s.fault = false → s.rxState = .lenHigh →
    ∃ t, exec (.rxb b) s = .next t ∧
      t = { s with rxLen := t.rxLen, rxCsum := s.rxCsum + b, rxState := t.rxState, resp := t.resp } ∧
      t.rxLen.toNat = s.rxLen.toNat % 256 + 256 * b.toNat ∧
      (t.rxLen.toNat ≤ 128 → t.rxState = .command ∧ t.resp = some Response.blank) ∧
      (128 < t.rxLen.toNat → t.rxState = .init ∧ t.resp = some { Response.blank with oversize := true }) ∧
      (b ≠ 0 → 128 < t.rxLen.toNat)

/-- The `Command` arm: every byte is accepted; a zero length goes straight to `Checksum` and leaves the counter (R94). -/
def Obligations.RxbCommandArm : Prop :=
  ∀ (b : Byte) (s : State), s.fault = false → s.rxState = .command →
    (s.rxLen = 0 → exec (.rxb b) s = .next { s with
      rxCmd := b, rxCsum := s.rxCsum + b, rxState := .checksum, resp := some Response.blank }) ∧
    (s.rxLen ≠ 0 → exec (.rxb b) s = .next { s with
      rxCmd := b, rxCsum := s.rxCsum + b, rxCnt := 0, rxState := .data, resp := some Response.blank })

/-- The `Data` arm: the byte is stored at `RXP[rx_cnt]` and nowhere else; the last payload byte leads to `Checksum` (R95). -/
def Obligations.RxbDataArm : Prop :=
  ∀ (b : Byte) (s : State), s.fault = false → s.rxState = .data → s.rxCnt.val < 128 →
    ∃ t, exec (.rxb b) s = .next t ∧
      t = { s with
        rxp := t.rxp
        rxCsum := s.rxCsum + b
        rxCnt := t.rxCnt
        rxState := if s.rxCnt.val + 1 = s.rxLen.toNat then .checksum else .data
        resp := some Response.blank } ∧
      t.rxCnt.val = s.rxCnt.val + 1 ∧ t.rxpByte s.rxCnt.val = b ∧ ∀ i, i ≠ s.rxCnt.val → t.rxpByte i = s.rxpByte i

/-- The `Checksum` arm: the computed checksum is kept, the received byte decides the result, the state is `Init` (R96). -/
def Obligations.RxbChecksumArm : Prop :=
  ∀ (b : Byte) (s : State), s.fault = false → s.rxState = .checksum →
    exec (.rxb b) s = .next { s with
      rxCsum := 0 - s.rxCsum
      rxState := .init
      resp := some { Response.blank with result := if 0 - s.rxCsum = b then .received else .invalidChecksum } }

/-- The model's choice of log entry 7: in state `Data` with `rx_cnt = 128`, which R34 I5 excludes, `RXB` stops by name. -/
def Obligations.RxbStopsPastTheBuffer : Prop :=
  ∀ (b : Byte) (s : State), s.fault = false → s.rxState = .data → s.rxCnt.val = 128 →
    exec (.rxb b) s = .fault .indexOutOfRange

/-- `RXB` touches no transmit, queue or mode state, and of `RXP` at most the element `rx_cnt`, in state `Data` (R85, R18). -/
def Obligations.RxbFrame : Prop :=
  ∀ (b : Byte) (s t : State), exec (.rxb b) s = .next t →
    SameTransmit s t ∧ SameQueue s t ∧ SameControl s t ∧ SameOutside s t ∧
      ∀ i, ¬(s.fault = false ∧ s.rxState = .data ∧ i = s.rxCnt.val) → t.rxpByte i = s.rxpByte i

/-- `rx_state` changes only by an `RXB` word, an `ABORT` word or reset (R13, R91). -/
def Obligations.RxStateWriters : Prop :=
  ∀ s t : State, step s = .next t → t.rxState ≠ s.rxState →
    (∃ w rest, s.pending = .word w :: rest ∧ ((∃ b, decode w = .ok (.rxb b)) ∨ decode w = .ok .abort)) ∨
    ∃ rest, s.pending = .reset :: rest

/-- A result other than `Receiving` comes from the `Checksum` step only; that step and every oversize step end in `Init` (R97,
R100). -/
def Obligations.FinalResultsComeFromChecksumStep : Prop :=
  ∀ (i : Instr) (s t : State) (r : Response), exec i s = .next t → t.resp = some r →
    (r.result ≠ .receiving → (∃ b, i = .rxb b) ∧ s.rxState = .checksum ∧ t.rxState = .init ∧ r.oversize = false) ∧
    (r.oversize = true → (∃ b, i = .rxb b) ∧ s.rxState = .lenHigh ∧ t.rxState = .init ∧ 128 < t.rxLen.toNat)

/-- The frame read-out is the tuple of R43, in array order, and no operation but `RXB` disturbs it, the frame registers or the bytes
of `RXP` (R194). That there is no read-out while `rx_len` is above 128 is the model's choice (log entry 11). -/
def Obligations.ReceivedFrameSurvivesOtherOperations : Prop :=
  (∀ s : State,
    (s.rxLen.toNat ≤ 128 → ∃ p, s.frameReadOut = some (s.rxCmd, s.rxLen, p, s.rxCsum) ∧ p.length = s.rxLen.toNat ∧
      ∀ j, j < s.rxLen.toNat → p[j]? = some (s.rxpByte j)) ∧
    (128 < s.rxLen.toNat → s.frameReadOut = none)) ∧
  ∀ (i : Instr) (s t : State), exec i s = .next t → (∀ b, i ≠ .rxb b) →
    t.rxLen = s.rxLen ∧ t.rxCmd = s.rxCmd ∧ t.rxCsum = s.rxCsum ∧ t.frameReadOut = s.frameReadOut ∧
      t.rxCnt = s.rxCnt ∧ (∀ j, t.rxpByte j = s.rxpByte j) ∧ (i ≠ .abort → t.rxState = s.rxState)

/-- Round trip (R99): a valid wire frame fed to a hunting receiver is reported `Receiving` for all bytes but the last and
`Received` for the last, and leaves its command, length, payload and checksum in the frame registers. -/
def Obligations.ValidFrameIsReceived : Prop :=
  ∀ (f : List Byte) (s : State), ValidFrame f → StateInv s → Hunting s →
    ∃ t, feed (rxs f) s =
        some (t, List.replicate (f.length - 1) (some Response.blank) ++ [some receivedResponse]) ∧
      t.rxState = .init ∧ t.rxCmd = frameCommand f ∧ t.rxLen.toNat = declaredLen f ∧
      t.rxPayload = framePayload f ∧ f.getLast? = some t.rxCsum ∧
      SameTransmit s t ∧ SameQueue s t ∧ SameControl s t ∧ SameOutside s t

/-- Whatever the last byte of a frame with a right length is, the receiver reports `Received` when it is the checksum and
`InvalidChecksum` when it is not, and keeps the checksum it computed (R64, R96). -/
def Obligations.LastByteDecidesTheResult : Prop :=
  ∀ (c k : Byte) (p : List Byte) (s : State), p.length ≤ 128 → StateInv s → Hunting s →
    ∃ t, feed (rxs (wireBytes c p k)) s =
        some (t, List.replicate (4 + p.length) (some Response.blank) ++
          [some (if k = csum8 (summedBytes c p) then receivedResponse else invalidResponse)]) ∧
      t.rxState = .init ∧ t.rxCmd = c ∧ t.rxPayload = p ∧ t.rxCsum = csum8 (summedBytes c p)

/-- A single changed byte behind the length bytes of a valid frame is always detected (R102, first case). -/
def Obligations.SingleCorruptedByteIsDetected : Prop :=
  ∀ (f : List Byte) (n : Nat) (x : Byte) (s : State), ValidFrame f → StateInv s → Hunting s →
    3 ≤ n → n < f.length → f[n]? ≠ some x →
      ∃ t, feed (rxs (f.set n x)) s =
          some (t, List.replicate (f.length - 1) (some Response.blank) ++ [some invalidResponse]) ∧
        t.rxState = .init

/-- Changes that keep the sum of command and payload are not detected (R103). -/
def Obligations.CompensatingErrorsAreNotDetected : Prop :=
  ∀ (c d : Byte) (p q : List Byte) (s : State), p.length ≤ 128 → q.length = p.length → sum8 (c :: p) = sum8 (d :: q) →
    StateInv s → Hunting s →
      ∃ t, feed (rxs (wireBytes d q (csum8 (summedBytes c p)))) s =
          some (t, List.replicate (4 + p.length) (some Response.blank) ++ [some receivedResponse]) ∧
        t.rxCmd = d ∧ t.rxPayload = q

/-- From `LenLow`, once the two length bytes declare `len`, the receiver is back in `Init` after them when `len` is oversize, else
after `len + 2` bytes more and not before (R100, R101). -/
def Obligations.ReceiverReturnsToInit : Prop :=
  ∀ (lo hi : Byte) (rest : List Byte) (s : State), StateInv s → s.fault = false → s.rxState = .lenLow →
    (128 < lo.toNat + 256 * hi.toNat → ∃ t rs, feed (rxs [lo, hi]) s = some (t, rs) ∧ t.rxState = .init) ∧
    (lo.toNat + 256 * hi.toNat ≤ 128 → rest.length ≤ lo.toNat + 256 * hi.toNat + 2 →
      ∃ t rs, feed (rxs (lo :: hi :: rest)) s = some (t, rs) ∧
        (t.rxState = .init ↔ rest.length = lo.toNat + 256 * hi.toNat + 2))

/-- A stalled sender leaves the receiver where it is for ever: however many steps are taken, without an `RXB`, an `ABORT` or a reset
among the inputs `rx_state` stays (R91, R199). -/
def Obligations.StalledReceiverStays : Prop :=
  ∀ (k : Nat) (s : State),
    (∀ x ∈ s.pending, ∃ w, x = .word w ∧ (∀ b, decode w ≠ .ok (.rxb b)) ∧ decode w ≠ .ok .abort) →
      ∃ t, Host.Core.run Sys2Proof.core k s = .next t ∧ t.rxState = s.rxState

/-! ### TXNEW, TXAPP, TXENC -/

/-- `TXNEW` sets the command and empties the payload, and does nothing else (R112). -/
def Obligations.TxnewStartsAFrame : Prop :=
  ∀ (c : Byte) (s : State), s.fault = false →
    exec (.txnew c) s = .next { s with txCmd := c, txLen := 0, resp := some Response.blank }

/-- `TXAPP` stores one byte at `TXP[tx_len]` while there is room, and raises the capacity fault when there is none (R113). -/
def Obligations.TxappAppendsOrFaults : Prop :=
  ∀ (b : Byte) (s : State), s.fault = false →
    (s.txLen.val < 128 → ∃ t, exec (.txapp b) s = .next t ∧
      t = { s with txp := t.txp, txLen := t.txLen, resp := some Response.blank } ∧
      t.txLen.val = s.txLen.val + 1 ∧ t.txpByte s.txLen.val = b ∧
      ∀ i, i ≠ s.txLen.val → t.txpByte i = s.txpByte i) ∧
    (s.txLen.val = 128 →
      exec (.txapp b) s = .next { s with fault := true, resp := some { Response.blank with status := .capfault } })

/-- `TXENC` returns the wire buffer of the transmit frame and writes `tx_csum` only (R114). -/
def Obligations.TxencEncodesTheFrame : Prop :=
  ∀ s : State, s.fault = false →
    ∃ t k, exec .txenc s = .next t ∧
      k = (256 - (s.txLen.val + s.txCmd.toNat + (s.txPayload.map BitVec.toNat).sum) % 256) % 256 ∧
      t = { s with
        txCsum := BitVec.ofNat 8 k
        resp := some { Response.blank with
          wire := [0x3A, BitVec.ofNat 8 s.txLen.val, 0x00, s.txCmd] ++ s.txPayload ++ [BitVec.ofNat 8 k] } } ∧
      s.txPayload.length = s.txLen.val ∧ ∀ i, i < s.txLen.val → s.txPayload[i]? = some (s.txpByte i)

/-- What the transmit operations leave alone: all receive, queue and mode state; of `TXP` all but the byte a `TXAPP` stores; the
command but for `TXNEW`; the checksum but for `TXENC` (R112 to R114, R41). -/
def Obligations.TransmitFrame : Prop :=
  ∀ (i : Instr) (s t : State), exec i s = .next t → ((∃ c, i = .txnew c) ∨ (∃ b, i = .txapp b) ∨ i = .txenc) →
    SameReceive s t ∧ SameQueue s t ∧ SameOutside s t ∧ t.mode = s.mode ∧
      ((∀ b, i ≠ .txapp b) → t.fault = s.fault ∧ ∀ a, t.txpByte a = s.txpByte a) ∧
      (∀ a, a ≠ s.txLen.val → t.txpByte a = s.txpByte a) ∧
      ((∀ c, i ≠ .txnew c) → t.txCmd = s.txCmd) ∧ (i ≠ .txenc → t.txCsum = s.txCsum) ∧ (i = .txenc → t.txLen = s.txLen)

/-- Every wire buffer `TXENC` returns is a valid frame, and a hunting receiver that is fed it reports `Received` on its last byte
with the same command and payload (R116). -/
def Obligations.EncodedWireIsValidAndReceived : Prop :=
  ∀ (s t : State) (r : Response), exec .txenc s = .next t → t.resp = some r → r.status = .ok →
    ValidFrame r.wire ∧ r.wire.length = 5 + s.txLen.val ∧
      ∀ u : State, StateInv u → Hunting u →
        ∃ v, feed (rxs r.wire) u =
            some (v, List.replicate (4 + s.txLen.val) (some Response.blank) ++ [some receivedResponse]) ∧
          v.rxCmd = s.txCmd ∧ v.rxPayload = s.txPayload

/-- `TXFRAME c, p` with at most 128 payload bytes returns the wire frame of `c` and `p` as its last response, from every state that
is not faulted, and touches nothing but the transmit frame (R75, R113, R114). -/
def Obligations.TxframeBuildsTheWireFrame : Prop :=
  ∀ (c : Byte) (p : List Byte) (s : State), s.fault = false → p.length ≤ 128 →
    ∃ t, feed (txframe c p) s =
        some (t, List.replicate (1 + p.length) (some Response.blank) ++
          [some { Response.blank with wire := wireBytes c p (csum8 (summedBytes c p)) }]) ∧
      t.txCmd = c ∧ t.txPayload = p ∧ t.txCsum = csum8 (summedBytes c p) ∧
      SameReceive s t ∧ SameQueue s t ∧ SameControl s t ∧ SameOutside s t

/-- Appending a 129th byte raises the capacity fault and keeps the 128 bytes; nothing wraps and nothing is truncated (R113,
R166). -/
def Obligations.AppendingPastCapacityFaults : Prop :=
  ∀ (c b : Byte) (p : List Byte) (s : State), s.fault = false → p.length = 128 →
    ∃ t, feed (opInput (.txnew c) :: (p ++ [b]).map (fun x => opInput (.txapp x))) s =
        some (t, List.replicate 129 (some Response.blank) ++
          [some { Response.blank with status := .capfault }]) ∧
      t.fault = true ∧ t.txLen.val = 128 ∧ t.txPayload = p ∧ t.txCmd = c

/-- The checksum generator is the negated sum modulo 256 (R64), makes the whole sum zero, and does not depend on the order of the
bytes (R117). -/
def Obligations.ChecksumGeneratorLaws : Prop :=
  (∀ bs : List Byte, (sum8 bs).toNat = (bs.map BitVec.toNat).sum % 256 ∧
    (csum8 bs).toNat = (256 - (bs.map BitVec.toNat).sum % 256) % 256 ∧ csum8 bs = ~~~(sum8 bs) + 1 ∧
    add8 (sum8 bs) (csum8 bs) = 0) ∧
  (∀ as bs : List Byte, as.Perm bs → csum8 as = csum8 bs) ∧
  (∀ as bs : List Byte, sum8 (as ++ bs) = add8 (sum8 as) (sum8 bs))

/-! ### PUSH, POP -/

/-- `PUSH` stores the event and advances `wr` in `Keyboard` mode with room; otherwise it is dropped and changes nothing (R132 to
R134). -/
def Obligations.PushStoresOrDrops : Prop :=
  ∀ (d : Direction) (u : Byte) (s : State), s.fault = false →
    (s.mode = .keyboard → (s.wr.val + 1) % 10 ≠ s.rd.val → ∃ t, exec (.push d u) s = .next t ∧
      t = { s with slot := t.slot, wr := t.wr, resp := some { Response.blank with accepted := true } } ∧
      t.wr.val = (s.wr.val + 1) % 10 ∧ t.slotEvent s.wr.val = ⟨d, u⟩ ∧
      ∀ i, i ≠ s.wr.val → t.slotEvent i = s.slotEvent i) ∧
    (s.mode = .negotiating → exec (.push d u) s = .next { s with resp := some Response.blank }) ∧
    ((s.wr.val + 1) % 10 = s.rd.val → exec (.push d u) s = .next { s with resp := some Response.blank })

/-- `POP` returns the event at `SLOT[rd]` and advances `rd`, in either mode; on an empty queue it says so and changes nothing (R136,
R137). -/
def Obligations.PopReturnsOldestOrEmpty : Prop :=
  ∀ s : State, s.fault = false →
    (s.wr ≠ s.rd → ∃ t, exec .pop s = .next t ∧
      t = { s with rd := t.rd, resp := some { Response.blank with event := s.slotEvent s.rd.val } } ∧
      t.rd.val = (s.rd.val + 1) % 10) ∧
    (s.wr = s.rd → exec .pop s = .next { s with resp := some { Response.blank with empty := true } })

/-- What the queue operations leave alone: all receive, transmit and control state; of `SLOT` all but the element `wr` that a `PUSH`
stores; `rd` but for `POP`, `wr` but for `PUSH` (R132, R136, R41). -/
def Obligations.QueueFrame : Prop :=
  ∀ (i : Instr) (s t : State), exec i s = .next t → ((∃ d u, i = .push d u) ∨ i = .pop) →
    SameReceive s t ∧ SameTransmit s t ∧ SameControl s t ∧ SameOutside s t ∧
      (i = .pop → t.wr = s.wr ∧ ∀ a, t.slotEvent a = s.slotEvent a) ∧
      (i ≠ .pop → t.rd = s.rd ∧ ∀ a, a ≠ s.wr.val → t.slotEvent a = s.slotEvent a)

/-- The derived queue outputs (R24): the count is between 0 and 9, 0 exactly when empty and 9 exactly when full. -/
def Obligations.QueueStatusOutputs : Prop :=
  ∀ s : State, s.qCount ≤ 9 ∧ (s.wr.val + 10 - s.rd.val) % 10 = s.qCount ∧ (s.qEmpty = true ↔ s.qCount = 0) ∧
    (s.qFull = true ↔ s.qCount = 9) ∧ s.held.length = s.qCount

/-- The count goes up by one on an accepted push, down by one on a successful pop, and is constant otherwise (R139). -/
def Obligations.QueueCountMovesByOne : Prop :=
  ∀ (i : Instr) (s t : State) (r : Response), exec i s = .next t → t.resp = some r →
    (r.accepted = true → t.qCount = s.qCount + 1 ∧ s.qCount ≤ 8) ∧
    (i = .pop → r.status = .ok → r.empty = false → t.qCount + 1 = s.qCount) ∧
    (r.accepted = false → ¬(i = .pop ∧ r.status = .ok ∧ r.empty = false) → t.wr = s.wr ∧ t.rd = s.rd)

/-- No `PUSH` writes the sacrificed slot `SLOT[(rd - 1) mod 10]` (R26). -/
def Obligations.SacrificedSlotIsNotWritten : Prop :=
  ∀ (d : Direction) (u : Byte) (s t : State), exec (.push d u) s = .next t →
    t.rd = s.rd ∧ t.slotEvent ((s.rd.val + 9) % 10) = s.slotEvent ((s.rd.val + 9) % 10)

/-- First in, first out (R138), over every sequence of operations that runs: the events popped, followed by the events held at the
end, are the events held at the start followed by the events accepted, in order and bit for bit. -/
def Obligations.QueueIsFirstInFirstOut : Prop :=
  ∀ (ops : List Instr) (s t : State) (rs : List (Option Response)), feed (ops.map opInput) s = some (t, rs) →
    poppedEvents ops rs ++ t.held = s.held ++ acceptedEvents ops rs

/-- Capacity (R140): from an empty queue in `Keyboard` mode, at every position of the indices, a pop says empty and changes nothing;
nine pushes are accepted; then the queue is full, holds the nine in order, and a tenth push is a no-op. -/
def Obligations.QueueAcceptsExactlyNine : Prop :=
  ∀ (es : List KeyEvent) (e : KeyEvent) (s : State), s.fault = false → s.mode = .keyboard → s.wr = s.rd → es.length = 9 →
    exec .pop s = .next { s with resp := some { Response.blank with empty := true } } ∧
    ∃ t, feed (es.map fun e => opInput (.push e.direction e.usage)) s =
        some (t, List.replicate 9 (some { Response.blank with accepted := true })) ∧
      t.qFull = true ∧ t.held = es ∧
      feed [opInput (.push e.direction e.usage)] t =
        some ({ t with resp := some Response.blank }, [some Response.blank])

/-! ### MODEK, ABORT -/

/-- `MODEK` sets the mode to `Keyboard` and does nothing else (R151). -/
def Obligations.ModekEntersKeyboard : Prop :=
  ∀ s : State, s.fault = false → exec .modek s = .next { s with mode := .keyboard, resp := some Response.blank }

/-- `ABORT` sets `rx_state` to `Init` and the mode to `Negotiating`, and does nothing else (R153). -/
def Obligations.AbortResetsReceiverAndMode : Prop :=
  ∀ s : State, s.fault = false →
    exec .abort s = .next { s with rxState := .init, mode := .negotiating, resp := some Response.blank }

/-- What the session operations leave alone (R151, R153, R154): the transmit frame, the queue and its events, `fault`, every receive
register but `rx_state`, and that one too for `MODEK`. -/
def Obligations.SessionFrame : Prop :=
  ∀ (i : Instr) (s t : State), exec i s = .next t → (i = .modek ∨ i = .abort) →
    SameTransmit s t ∧ SameQueue s t ∧ SameOutside s t ∧ t.fault = s.fault ∧ t.held = s.held ∧
      t.rxLen = s.rxLen ∧ t.rxCmd = s.rxCmd ∧ t.rxCsum = s.rxCsum ∧ t.rxCnt = s.rxCnt ∧
      (∀ a, t.rxpByte a = s.rxpByte a) ∧ (i = .modek → t.rxState = s.rxState)

/-- The session mode starts in `Negotiating`, becomes `Keyboard` only by a `MODEK` word, and reverts to `Negotiating` only by an
`ABORT` word or reset (R150). -/
def Obligations.ModeTransitions : Prop :=
  State.reset.mode = .negotiating ∧
  ∀ s t : State, step s = .next t → t.mode ≠ s.mode →
    (t.mode = .keyboard ∧ ∃ w rest, s.pending = .word w :: rest ∧ decode w = .ok .modek) ∨
    (t.mode = .negotiating ∧ ((∃ w rest, s.pending = .word w :: rest ∧ decode w = .ok .abort) ∨
      ∃ rest, s.pending = .reset :: rest))

/-- `ABORT`, `MODEK`, `TXNEW c` and `TXENC` leave the same state when repeated (R49). -/
def Obligations.RepeatableOperations : Prop :=
  ∀ (i : Instr) (s t : State), (i = .abort ∨ i = .modek ∨ (∃ c, i = .txnew c) ∨ i = .txenc) →
    exec i s = .next t → exec i t = .next t

/-! ### Invariants of the whole machine -/

/-- The invariants of R34, the canonical form of the arrays and the written elements hold after reset. -/
def Obligations.ResetMeetsTheInvariants : Prop :=
  StateInv State.reset

/-- Every step keeps the invariants of R34, the canonical form of the arrays and the written elements. -/
def Obligations.StepKeepsTheInvariants : Prop :=
  ∀ s t : State, StateInv s → step s = .next t → StateInv t

/-- In every state reachable from reset by any sequence of inputs the invariants hold (R34; with them the canonical form and the
written elements of the arrays, which are the model's, log entry 5), and no such sequence makes the machine stop (from R42; the only
stop is the model's, log entry 7). -/
def Obligations.ReachableStatesMeetTheInvariants : Prop :=
  ∀ xs : List Input, ∃ t rs, feed xs State.reset = some (t, rs) ∧ rs.length = xs.length ∧ StateInv t

/-- In the states the invariants allow, no operation stops: every one of them answers a next state (R42). -/
def Obligations.EveryOperationCompletes : Prop :=
  ∀ (i : Instr) (s : State), StateInv s → ∃ t, exec i s = .next t

/-- Where the invariants hold, two states that differ only in the count of resets, the argument of the free contents of the elements
not written since reset, take the same step, with the same response. That those contents are a function of that count is the model's
choice (log entry 5); the contents themselves vary in StepIgnoresUnwrittenElements (R188). -/
def Obligations.UnwrittenElementsAreNeverRead : Prop :=
  ∀ (s : State) (n : Nat) (w : Word) (rest : List Input), StateInv s → s.pending = .word w :: rest →
    ∃ t, step s = .next t ∧ step { s with resets := n } = .next { t with resets := n }

/-- The contents of elements not written since reset are never seen through an operation (R188): if any of them, in any of the three
arrays, are given any values whatever, the step answers as before, with the same response and the same registers, and again only
elements that are unwritten without those values can differ. That an unwritten element is one its array does not list is the model's
choice (log entry 5). -/
def Obligations.StepIgnoresUnwrittenElements : Prop :=
  ∀ s u : State, StateInv s → SameButUnwritten s u →
    ∃ t v, step s = .next t ∧ step u = .next v ∧ SameButUnwritten t v ∧ v.resp = t.resp
end

