-- ==== Sys2Proof/Laws/Bits.lean ====
section
/-! SUPPORT. Bit-field assembly and the arithmetic of the block. -/

namespace Sys2Proof

/-- The fields of the word of four fields are those fields. -/
@[simp] theorem OpFields.ofWord_toWord (f : OpFields) : OpFields.ofWord f.toWord = f := by
  obtain ⟨op, zero, arg8, arg⟩ := f
  simp only [OpFields.ofWord, OpFields.toWord, OpFields.mk.injEq]
  refine ⟨?_, ?_, ?_, ?_⟩ <;> apply BitVec.eq_of_getLsbD_eq <;> intro i hi
  all_goals
    simp only [BitVec.getLsbD_append, BitVec.getLsbD_extractLsb', hi, decide_true, Bool.true_and]
    split_ifs <;> first | omega | (congr 1; omega)

/-- The word of a word's four fields is the word. -/
@[simp] theorem OpFields.toWord_ofWord (w : Word) : (OpFields.ofWord w).toWord = w := by
  apply BitVec.eq_of_getLsbD_eq
  intro i hi
  simp only [OpFields.ofWord, OpFields.toWord, BitVec.getLsbD_append, BitVec.getLsbD_extractLsb']
  split_ifs
  all_goals
    rw [decide_eq_true (by omega), Bool.true_and]
    congr 1
    omega

@[simp] theorem Direction.ofBit_toBit (d : Direction) : Direction.ofBit d.toBit = d := by
  cases d <;> decide

@[simp] theorem Direction.toBit_ofBit (b : BitVec 1) : (Direction.ofBit b).toBit = b := by
  revert b; decide

theorem setLenLow_toNat (len : BitVec 16) (b : Byte) : (setLenLow len b).toNat = len.toNat / 256 * 256 + b.toNat := by
  have := len.isLt
  have := b.isLt
  simp only [setLenLow, BitVec.toNat_append, BitVec.extractLsb'_toNat]
  rw [← Nat.shiftLeft_add_eq_or_of_lt b.isLt, Nat.shiftLeft_eq, Nat.shiftRight_eq_div_pow]
  omega

theorem setLenHigh_toNat (len : BitVec 16) (b : Byte) : (setLenHigh len b).toNat = len.toNat % 256 + 256 * b.toNat := by
  have := len.isLt
  have := b.isLt
  simp only [setLenHigh, BitVec.toNat_append, BitVec.extractLsb'_toNat]
  rw [← Nat.shiftLeft_add_eq_or_of_lt (by omega), Nat.shiftLeft_eq, Nat.shiftRight_eq_div_pow]
  omega

end Sys2Proof

namespace Sys2Proof.Machine

theorem inc10_val (i : SlotIndex) : (inc10 i).val = (i.val + 1) % 10 := rfl

theorem State.qCount_eq (s : State) : s.qCount = (s.wr.val + 10 - s.rd.val) % 10 := rfl

theorem State.qEmpty_iff (s : State) : s.qEmpty = true ↔ s.wr = s.rd := by
  simp [State.qEmpty]

theorem State.qFull_iff (s : State) : s.qFull = true ↔ (s.wr.val + 1) % 10 = s.rd.val := by
  simp [State.qFull, Fin.ext_iff, inc10_val]

theorem oversizeLength_iff (len : BitVec 16) : oversizeLength len = true ↔ 128 < len.toNat := by
  simp [oversizeLength]

end Sys2Proof.Machine
end

