-- ==== Sys2Proof/Laws/Memory.lean ====
section
/-! SUPPORT. The array operations: what a read sees after a write, and that a write keeps the canonical form. -/

namespace Sys2Proof.Machine

variable {α : Type}

@[simp] theorem Memory.read_nil (a : Nat) : Memory.read ([] : List (Nat × α)) a = none := rfl

/-- A read after a write to the same index sees the value written. -/
@[simp] theorem Memory.read_write_same (m : List (Nat × α)) (a : Nat) (v : α) :
    Memory.read (Memory.write m a v) a = some v := by
  induction m with
  | nil => simp [Memory.write, Memory.read]
  | cons e m ih =>
    unfold Memory.write
    split
    · simp [Memory.read]
    · split
      · simp [Memory.read]
      · simp [Memory.read, ih, Ne.symm ‹_›]

/-- A write leaves every other index alone. -/
theorem Memory.read_write_other (m : List (Nat × α)) {a i : Nat} (v : α) (h : i ≠ a) :
    Memory.read (Memory.write m a v) i = Memory.read m i := by
  induction m with
  | nil => simp [Memory.write, Memory.read, h.symm]
  | cons e m ih =>
    unfold Memory.write
    split
    · simp [Memory.read, h.symm]
    · split
      · subst_vars; simp [Memory.read, h.symm]
      · simp [Memory.read, ih]

/-- What a read sees after a write, in one equation. -/
theorem Memory.read_write (m : List (Nat × α)) (a i : Nat) (v : α) :
    Memory.read (Memory.write m a v) i = if i = a then some v else Memory.read m i := by
  split
  · subst_vars; simp
  · exact Memory.read_write_other m v ‹_›

/-- A write makes no element unwritten. -/
theorem Memory.isSome_read_write (m : List (Nat × α)) (a i : Nat) (v : α)
    (h : i = a ∨ (Memory.read m i).isSome = true) : (Memory.read (Memory.write m a v) i).isSome = true := by
  rw [Memory.read_write]
  split
  · rfl
  · exact h.resolve_left ‹_›

@[simp] theorem Memory.wf_nil (size : Nat) : Memory.wf size ([] : List (Nat × α)) = true := rfl

theorem Memory.wfFrom_write (size low : Nat) (m : List (Nat × α)) (a : Nat) (v : α)
    (hlow : low ≤ a) (ha : a < size) (h : Memory.wfFrom size low m = true) :
    Memory.wfFrom size low (Memory.write m a v) = true := by
  induction m generalizing low with
  | nil => simp [Memory.write, Memory.wfFrom, hlow, ha]
  | cons e m ih =>
    simp only [Memory.wfFrom, Bool.and_eq_true, decide_eq_true_eq] at h
    obtain ⟨⟨h1, h2⟩, h3⟩ := h
    unfold Memory.write
    split
    · simp only [Memory.wfFrom, Bool.and_eq_true, decide_eq_true_eq]
      exact ⟨⟨hlow, ha⟩, ⟨by omega, h2⟩, h3⟩
    · split
      · subst_vars
        simp only [Memory.wfFrom, Bool.and_eq_true, decide_eq_true_eq]
        exact ⟨⟨hlow, ha⟩, h3⟩
      · simp only [Memory.wfFrom, Bool.and_eq_true, decide_eq_true_eq]
        exact ⟨⟨h1, h2⟩, ih _ (by omega) h3⟩

/-- A write inside an array keeps its canonical form. -/
theorem Memory.wf_write (size : Nat) (m : List (Nat × α)) (a : Nat) (v : α) (ha : a < size)
    (h : Memory.wf size m = true) : Memory.wf size (Memory.write m a v) = true :=
  Memory.wfFrom_write size 0 m a v (Nat.zero_le a) ha h

/-- In canonical form an index below the first possible one is unlisted. -/
theorem Memory.read_of_wfFrom (size low : Nat) (m : List (Nat × α)) (h : Memory.wfFrom size low m = true)
    {i : Nat} (hi : i < low) : Memory.read m i = none := by
  induction m generalizing low with
  | nil => rfl
  | cons e m ih =>
    simp only [Memory.wfFrom, Bool.and_eq_true, decide_eq_true_eq] at h
    rw [Memory.read, if_neg (by omega)]
    exact ih _ h.2 (by omega)

theorem Memory.wfFrom_mono (size low low' : Nat) (m : List (Nat × α)) (hl : low ≤ low')
    (h : Memory.wfFrom size low' m = true) : Memory.wfFrom size low m = true := by
  cases m with
  | nil => rfl
  | cons e m =>
    simp only [Memory.wfFrom, Bool.and_eq_true, decide_eq_true_eq] at h ⊢
    exact ⟨⟨by omega, h.1.2⟩, h.2⟩

/-- Two arrays in canonical form that read alike at every index are equal data. -/
theorem Memory.eq_of_read_eq (size low : Nat) (m n : List (Nat × α)) (hm : Memory.wfFrom size low m = true)
    (hn : Memory.wfFrom size low n = true) (h : ∀ i, Memory.read m i = Memory.read n i) : m = n := by
  induction m generalizing low n with
  | nil =>
    cases n with
    | nil => rfl
    | cons e n => simpa [Memory.read] using h e.1
  | cons e m ih =>
    cases n with
    | nil => simpa [Memory.read] using h e.1
    | cons f n =>
      simp only [Memory.wfFrom, Bool.and_eq_true, decide_eq_true_eq] at hm hn
      have he := h e.1
      have hf := h f.1
      simp only [Memory.read, if_true] at he hf
      have hk : f.1 = e.1 := by
        rcases Nat.lt_trichotomy f.1 e.1 with hlt | heq | hgt
        · rw [if_neg (by omega), Memory.read_of_wfFrom size _ m hm.2 (by omega)] at hf
          cases hf
        · exact heq
        · rw [if_neg (by omega), Memory.read_of_wfFrom size _ n hn.2 (by omega)] at he
          cases he
      rw [if_pos hk] at he
      have hef : e = f := Prod.ext hk.symm (Option.some.inj he)
      subst hef
      rw [ih _ _ hm.2 hn.2 fun i => ?_]
      rcases Nat.lt_or_ge e.1 i with hi | hi
      · simpa [Memory.read, Nat.ne_of_lt hi] using h i
      · rw [Memory.read_of_wfFrom size _ m hm.2 (by omega), Memory.read_of_wfFrom size _ n hn.2 (by omega)]

end Sys2Proof.Machine
end

