-- ==== Sys2Proof/Laws/Extends.lean ====
section
/-! SUPPORT. Arrays that list more elements than others: what both read alike, and that a write to both keeps this. -/

namespace Sys2Proof.Machine

variable {α : Type} {m n : List (Nat × α)}

theorem Memory.Extends.refl (m : List (Nat × α)) : Memory.Extends m m := fun _ _ h => h

@[simp] theorem Memory.extends_nil (n : List (Nat × α)) : Memory.Extends [] n := fun _ _ h => nomatch h

/-- Listing a value at an unlisted index. -/
theorem Memory.Extends.of_unlisted {a : Nat} (v : α) (h : Memory.read m a = none) :
    Memory.Extends m (Memory.write m a v) := by
  intro i u hi
  rwa [Memory.read_write_other]
  rintro rfl
  cases h.symm.trans hi

/-- A written element reads alike in both. -/
theorem Memory.Extends.read_eq (h : Memory.Extends m n) {i : Nat} (hi : (Memory.read m i).isSome = true) :
    Memory.read n i = Memory.read m i := by
  obtain ⟨v, hv⟩ := Option.isSome_iff_exists.mp hi
  rw [hv, h i v hv]

/-- The same write to both. -/
theorem Memory.Extends.write (h : Memory.Extends m n) (a : Nat) (v : α) :
    Memory.Extends (Memory.write m a v) (Memory.write n a v) := by
  intro i u
  simp only [Memory.read_write]
  split
  · exact id
  · exact h i u

theorem SameButUnwritten.refl (s : State) : SameButUnwritten s s :=
  ⟨rfl, .refl _, .refl _, .refl _⟩

/-- The payload of the transmit frame, once written, is the same in both. -/
theorem SameButUnwritten.txPayload_eq {s u : State} (h : SameButUnwritten s u)
    (hw : ∀ i, i < s.txLen.val → (Memory.read s.txp i).isSome = true) : u.txPayload = s.txPayload := by
  have hl : u.txLen = s.txLen := by rw [h.1]
  simp only [State.txPayload, hl]
  refine List.map_congr_left fun i hi => ?_
  obtain ⟨v, hv⟩ := Option.isSome_iff_exists.mp (hw i (List.mem_range.mp hi))
  simp [State.txpByte, hv, h.2.2.1 i v hv]

/-- A written slot holds the same event in both. -/
theorem SameButUnwritten.slotEvent_eq {s u : State} (h : SameButUnwritten s u) {i : Nat}
    (hw : (Memory.read s.slot i).isSome = true) : u.slotEvent i = s.slotEvent i := by
  obtain ⟨v, hv⟩ := Option.isSome_iff_exists.mp hw
  simp [State.slotEvent, hv, h.2.2.2 i v hv]

end Sys2Proof.Machine
end

