-- ==== Sys2Proof/Laws/Feed.lean ====
section
/-! SUPPORT. Sequences of inputs: one input at a time, one part after another, and what carries over groups of state. -/

namespace Sys2Proof.Machine

@[simp] theorem feed_nil (s : State) : feed [] s = some (s, []) := rfl

/-- Feeding a first input whose step is known. -/
theorem feed_cons_next {x : Input} {s t : State} (xs : List Input) (h : step (present x s) = .next t) :
    feed (x :: xs) s = (feed xs t).map fun p => (p.1, t.resp :: p.2) := by
  simp [feed, h]

/-- A sequence that runs begins with a step that answers a next state. -/
theorem feed_cons_some {x : Input} {xs : List Input} {s u : State} {rs : List (Option Response)}
    (h : feed (x :: xs) s = some (u, rs)) :
    ∃ t rs', step (present x s) = .next t ∧ feed xs t = some (u, rs') ∧ rs = t.resp :: rs' := by
  simp only [feed] at h
  cases hs : step (present x s) with
  | next t =>
    simp only [hs, Option.map_eq_some_iff] at h
    obtain ⟨⟨v, rs'⟩, h1, h2⟩ := h
    cases h2
    exact ⟨t, rs', rfl, h1, rfl⟩
  | fault r => simp [hs] at h
  | refused r => simp [hs] at h

/-- Two sequences one after the other. -/
theorem feed_append {xs : List Input} {s t : State} {rs : List (Option Response)} (ys : List Input)
    (h : feed xs s = some (t, rs)) : feed (xs ++ ys) s = (feed ys t).map fun p => (p.1, rs ++ p.2) := by
  induction xs generalizing s rs with
  | nil =>
    cases h
    simp
  | cons x xs ih =>
    obtain ⟨u, rs', h1, h2, rfl⟩ := feed_cons_some h
    rw [List.cons_append, feed_cons_next _ h1, ih h2]
    simp [Function.comp_def]

@[simp] theorem rxs_nil : rxs [] = [] := rfl

@[simp] theorem rxs_cons (b : Byte) (bs : List Byte) : rxs (b :: bs) = opInput (.rxb b) :: rxs bs := rfl

@[simp] theorem rxs_append (as bs : List Byte) : rxs (as ++ bs) = rxs as ++ rxs bs := by
  simp [rxs]

theorem SameReceive.trans {s t u : State} (h : SameReceive s t) (g : SameReceive t u) : SameReceive s u :=
  ⟨g.1.trans h.1, g.2.1.trans h.2.1, g.2.2.1.trans h.2.2.1, g.2.2.2.1.trans h.2.2.2.1, g.2.2.2.2.1.trans h.2.2.2.2.1,
    fun i => (g.2.2.2.2.2 i).trans (h.2.2.2.2.2 i)⟩

theorem SameTransmit.trans {s t u : State} (h : SameTransmit s t) (g : SameTransmit t u) : SameTransmit s u :=
  ⟨g.1.trans h.1, g.2.1.trans h.2.1, g.2.2.1.trans h.2.2.1, fun i => (g.2.2.2 i).trans (h.2.2.2 i)⟩

theorem SameQueue.trans {s t u : State} (h : SameQueue s t) (g : SameQueue t u) : SameQueue s u :=
  ⟨g.1.trans h.1, g.2.1.trans h.2.1, fun i => (g.2.2 i).trans (h.2.2 i)⟩

theorem SameControl.trans {s t u : State} (h : SameControl s t) (g : SameControl t u) : SameControl s u :=
  ⟨g.1.trans h.1, g.2.trans h.2⟩

theorem SameOutside.trans {s t u : State} (h : SameOutside s t) (g : SameOutside t u) : SameOutside s u :=
  ⟨g.1.trans h.1, g.2.trans h.2⟩

end Sys2Proof.Machine
end

