-- ==== Sys2Proof/Laws/Ops.lean ====
section
/-! SUPPORT. One lemma for each shared operation that says what it can do. -/

namespace Sys2Proof.Machine

theorem refuseFaulted_eq (s : State) : refuseFaulted s = .next (s.respond (Response.ofStatus .faulted)) := rfl

@[simp] theorem whenRunning_faulted (s : State) (rule : State → Host.Outcome State Fault Refusal) (h : s.fault = true) :
    whenRunning s rule = .next (s.respond (Response.ofStatus .faulted)) := by
  simp [whenRunning, h, refuseFaulted_eq]

@[simp] theorem whenRunning_running (s : State) (rule : State → Host.Outcome State Fault Refusal) (h : s.fault = false) :
    whenRunning s rule = rule s := by
  simp [whenRunning, h]

/-- What a guarded operation can answer: the refusal while faulted, or what its rule answers. -/
theorem whenRunning_next {s t : State} {rule : State → Host.Outcome State Fault Refusal}
    (h : whenRunning s rule = .next t) :
    (s.fault = true ∧ t = s.respond (Response.ofStatus .faulted)) ∨ (s.fault = false ∧ rule s = .next t) := by
  cases hf : s.fault with
  | true => rw [whenRunning_faulted s rule hf] at h; exact .inl ⟨rfl, (Host.Outcome.next.inj h).symm⟩
  | false => rw [whenRunning_running s rule hf] at h; exact .inr ⟨rfl, h⟩

/-- A reserved word's refusal never stops; it changes the response only. -/
theorem refuseReserved_eq (s : State) :
    refuseReserved s = .next (s.respond (Response.ofStatus (if s.fault = true then .faulted else .illegal))) := by
  cases hf : s.fault <;> simp [refuseReserved, hf]

theorem raiseCapacityFault_eq (s : State) :
    raiseCapacityFault s = .next ({ s with fault := true }.respond (Response.ofStatus .capfault)) := rfl

theorem takeInput_nil {s : State} (h : s.pending = []) : takeInput s = none := by
  simp [takeInput, h]

theorem takeInput_cons {s : State} {x : Input} {rest : List Input} (h : s.pending = x :: rest) :
    takeInput s = some (x, { s with pending := rest }) := by
  simp [takeInput, h]

/-- A presented input is the next one taken, and the state is as before. -/
@[simp] theorem takeInput_present (x : Input) (s : State) : takeInput (present x s) = some (x, s) := rfl

/-- The four things a step can be. -/
theorem step_cases (s : State) :
    (s.pending = [] ∧ step s = .next s) ∨
    (∃ rest, s.pending = .reset :: rest ∧ step s = .next (applyReset { s with pending := rest })) ∨
    (∃ w rest i, s.pending = .word w :: rest ∧ decode w = .ok i ∧ step s = exec i { s with pending := rest }) ∨
    (∃ w rest r, s.pending = .word w :: rest ∧ decode w = .error r ∧
      step s = refuseReserved { s with pending := rest }) := by
  unfold step
  cases hp : s.pending with
  | nil => rw [takeInput_nil hp]; exact .inl ⟨rfl, rfl⟩
  | cons x rest =>
    rw [takeInput_cons hp]
    cases x with
    | reset => exact .inr (.inl ⟨rest, rfl, rfl⟩)
    | word w =>
      cases hd : decode w with
      | ok i => exact .inr (.inr (.inl ⟨w, rest, i, rfl, hd, by simp only [hd]⟩))
      | error r => exact .inr (.inr (.inr ⟨w, rest, r, rfl, hd, by simp only [hd]⟩))

/-! ### The arm of the receive state machine that handles a byte (R86) -/

theorem rxArm_init {s : State} (b : Byte) (h : s.rxState = .init) : rxArm b s = rxSyncArm b (rxClear s) := by
  simp only [rxArm, h]

theorem rxArm_sync {s : State} (b : Byte) (h : s.rxState = .sync) : rxArm b s = rxSyncArm b s := by
  simp only [rxArm, h]

theorem rxArm_lenLow {s : State} (b : Byte) (h : s.rxState = .lenLow) : rxArm b s = rxLenLowArm b s := by
  simp only [rxArm, h]

theorem rxArm_lenHigh {s : State} (b : Byte) (h : s.rxState = .lenHigh) : rxArm b s = rxLenHighArm b s := by
  simp only [rxArm, h]

theorem rxArm_command {s : State} (b : Byte) (h : s.rxState = .command) : rxArm b s = rxCommandArm b s := by
  simp only [rxArm, h]

theorem rxArm_data {s : State} (b : Byte) (h : s.rxState = .data) : rxArm b s = rxDataArm b s := by
  simp only [rxArm, h]

theorem rxArm_checksum {s : State} (b : Byte) (h : s.rxState = .checksum) : rxArm b s = rxChecksumArm b s := by
  simp only [rxArm, h]

/-- The transmit payload has `tx_len` bytes. -/
@[simp] theorem State.txPayload_length (s : State) : s.txPayload.length = s.txLen.val := by
  simp [State.txPayload]

/-- The read-out payload has `rx_len` bytes. -/
@[simp] theorem State.rxPayload_length (s : State) : s.rxPayload.length = s.rxLen.toNat := by
  simp [State.rxPayload]

end Sys2Proof.Machine
end

