-- ==== Sys2Proof/Laws/PerInstr.lean ====
section
/-! SUPPORT. Statements about every operation as syntax, one lemma per constructor of `Instr`. -/

namespace Sys2Proof.Laws.RowEncoding

/-- The operation's word matches its own row of R70 and is well formed by R72. -/
def Statement (i : Instr) : Prop :=
  encode i &&& rowMask i = rowMatch i ∧ (OpFields.ofWord (encode i)).wellFormed = true

theorem rxb (b : Byte) : Statement (.rxb b) := by
  revert b; unfold Statement; decide

theorem abort : Statement .abort := by
  unfold Statement; decide

theorem modek : Statement .modek := by
  unfold Statement; decide

theorem txnew (c : Byte) : Statement (.txnew c) := by
  revert c; unfold Statement; decide

theorem txapp (b : Byte) : Statement (.txapp b) := by
  revert b; unfold Statement; decide

theorem txenc : Statement .txenc := by
  unfold Statement; decide

theorem push (d : Direction) (u : Byte) : Statement (.push d u) := by
  cases d <;> revert u <;> unfold Statement <;> decide

theorem pop : Statement .pop := by
  unfold Statement; decide

end Sys2Proof.Laws.RowEncoding
end

