-- ==== Sys2Proof/Laws/State.lean ====
section
/-! SUPPORT. One lemma per field for each named update of the state. -/

namespace Sys2Proof.Machine

/-! ### `State.respond` -/

@[simp] theorem State.respond_rxState (s : State) (r : Response) : (s.respond r).rxState = s.rxState := rfl
@[simp] theorem State.respond_rxLen (s : State) (r : Response) : (s.respond r).rxLen = s.rxLen := rfl
@[simp] theorem State.respond_rxCmd (s : State) (r : Response) : (s.respond r).rxCmd = s.rxCmd := rfl
@[simp] theorem State.respond_rxCsum (s : State) (r : Response) : (s.respond r).rxCsum = s.rxCsum := rfl
@[simp] theorem State.respond_rxCnt (s : State) (r : Response) : (s.respond r).rxCnt = s.rxCnt := rfl
@[simp] theorem State.respond_rxp (s : State) (r : Response) : (s.respond r).rxp = s.rxp := rfl
@[simp] theorem State.respond_txCmd (s : State) (r : Response) : (s.respond r).txCmd = s.txCmd := rfl
@[simp] theorem State.respond_txLen (s : State) (r : Response) : (s.respond r).txLen = s.txLen := rfl
@[simp] theorem State.respond_txCsum (s : State) (r : Response) : (s.respond r).txCsum = s.txCsum := rfl
@[simp] theorem State.respond_txp (s : State) (r : Response) : (s.respond r).txp = s.txp := rfl
@[simp] theorem State.respond_wr (s : State) (r : Response) : (s.respond r).wr = s.wr := rfl
@[simp] theorem State.respond_rd (s : State) (r : Response) : (s.respond r).rd = s.rd := rfl
@[simp] theorem State.respond_slot (s : State) (r : Response) : (s.respond r).slot = s.slot := rfl
@[simp] theorem State.respond_mode (s : State) (r : Response) : (s.respond r).mode = s.mode := rfl
@[simp] theorem State.respond_fault (s : State) (r : Response) : (s.respond r).fault = s.fault := rfl
@[simp] theorem State.respond_pending (s : State) (r : Response) : (s.respond r).pending = s.pending := rfl
@[simp] theorem State.respond_resp (s : State) (r : Response) : (s.respond r).resp = some r := rfl
@[simp] theorem State.respond_resets (s : State) (r : Response) : (s.respond r).resets = s.resets := rfl

/-! ### `present` -/

@[simp] theorem present_rxState (x : Input) (s : State) : (present x s).rxState = s.rxState := rfl
@[simp] theorem present_rxLen (x : Input) (s : State) : (present x s).rxLen = s.rxLen := rfl
@[simp] theorem present_rxCmd (x : Input) (s : State) : (present x s).rxCmd = s.rxCmd := rfl
@[simp] theorem present_rxCsum (x : Input) (s : State) : (present x s).rxCsum = s.rxCsum := rfl
@[simp] theorem present_rxCnt (x : Input) (s : State) : (present x s).rxCnt = s.rxCnt := rfl
@[simp] theorem present_rxp (x : Input) (s : State) : (present x s).rxp = s.rxp := rfl
@[simp] theorem present_txCmd (x : Input) (s : State) : (present x s).txCmd = s.txCmd := rfl
@[simp] theorem present_txLen (x : Input) (s : State) : (present x s).txLen = s.txLen := rfl
@[simp] theorem present_txCsum (x : Input) (s : State) : (present x s).txCsum = s.txCsum := rfl
@[simp] theorem present_txp (x : Input) (s : State) : (present x s).txp = s.txp := rfl
@[simp] theorem present_wr (x : Input) (s : State) : (present x s).wr = s.wr := rfl
@[simp] theorem present_rd (x : Input) (s : State) : (present x s).rd = s.rd := rfl
@[simp] theorem present_slot (x : Input) (s : State) : (present x s).slot = s.slot := rfl
@[simp] theorem present_mode (x : Input) (s : State) : (present x s).mode = s.mode := rfl
@[simp] theorem present_fault (x : Input) (s : State) : (present x s).fault = s.fault := rfl
@[simp] theorem present_pending (x : Input) (s : State) : (present x s).pending = x :: s.pending := rfl
@[simp] theorem present_resp (x : Input) (s : State) : (present x s).resp = s.resp := rfl
@[simp] theorem present_resets (x : Input) (s : State) : (present x s).resets = s.resets := rfl

/-! ### `rxClear` -/

@[simp] theorem rxClear_rxState (s : State) : (rxClear s).rxState = .sync := rfl
@[simp] theorem rxClear_rxLen (s : State) : (rxClear s).rxLen = 0 := rfl
@[simp] theorem rxClear_rxCmd (s : State) : (rxClear s).rxCmd = 0 := rfl
@[simp] theorem rxClear_rxCsum (s : State) : (rxClear s).rxCsum = 0 := rfl
@[simp] theorem rxClear_rxCnt (s : State) : (rxClear s).rxCnt = s.rxCnt := rfl
@[simp] theorem rxClear_rxp (s : State) : (rxClear s).rxp = s.rxp := rfl
@[simp] theorem rxClear_txCmd (s : State) : (rxClear s).txCmd = s.txCmd := rfl
@[simp] theorem rxClear_txLen (s : State) : (rxClear s).txLen = s.txLen := rfl
@[simp] theorem rxClear_txCsum (s : State) : (rxClear s).txCsum = s.txCsum := rfl
@[simp] theorem rxClear_txp (s : State) : (rxClear s).txp = s.txp := rfl
@[simp] theorem rxClear_wr (s : State) : (rxClear s).wr = s.wr := rfl
@[simp] theorem rxClear_rd (s : State) : (rxClear s).rd = s.rd := rfl
@[simp] theorem rxClear_slot (s : State) : (rxClear s).slot = s.slot := rfl
@[simp] theorem rxClear_mode (s : State) : (rxClear s).mode = s.mode := rfl
@[simp] theorem rxClear_fault (s : State) : (rxClear s).fault = s.fault := rfl
@[simp] theorem rxClear_pending (s : State) : (rxClear s).pending = s.pending := rfl
@[simp] theorem rxClear_resp (s : State) : (rxClear s).resp = s.resp := rfl
@[simp] theorem rxClear_resets (s : State) : (rxClear s).resets = s.resets := rfl

/-! ### `applyReset` -/

@[simp] theorem applyReset_rxState (s : State) : (applyReset s).rxState = State.reset.rxState := rfl
@[simp] theorem applyReset_rxLen (s : State) : (applyReset s).rxLen = State.reset.rxLen := rfl
@[simp] theorem applyReset_rxCmd (s : State) : (applyReset s).rxCmd = State.reset.rxCmd := rfl
@[simp] theorem applyReset_rxCsum (s : State) : (applyReset s).rxCsum = State.reset.rxCsum := rfl
@[simp] theorem applyReset_rxCnt (s : State) : (applyReset s).rxCnt = State.reset.rxCnt := rfl
@[simp] theorem applyReset_rxp (s : State) : (applyReset s).rxp = State.reset.rxp := rfl
@[simp] theorem applyReset_txCmd (s : State) : (applyReset s).txCmd = State.reset.txCmd := rfl
@[simp] theorem applyReset_txLen (s : State) : (applyReset s).txLen = State.reset.txLen := rfl
@[simp] theorem applyReset_txCsum (s : State) : (applyReset s).txCsum = State.reset.txCsum := rfl
@[simp] theorem applyReset_txp (s : State) : (applyReset s).txp = State.reset.txp := rfl
@[simp] theorem applyReset_wr (s : State) : (applyReset s).wr = State.reset.wr := rfl
@[simp] theorem applyReset_rd (s : State) : (applyReset s).rd = State.reset.rd := rfl
@[simp] theorem applyReset_slot (s : State) : (applyReset s).slot = State.reset.slot := rfl
@[simp] theorem applyReset_mode (s : State) : (applyReset s).mode = State.reset.mode := rfl
@[simp] theorem applyReset_fault (s : State) : (applyReset s).fault = State.reset.fault := rfl
@[simp] theorem applyReset_pending (s : State) : (applyReset s).pending = s.pending := rfl
@[simp] theorem applyReset_resp (s : State) : (applyReset s).resp = State.reset.resp := rfl
@[simp] theorem applyReset_resets (s : State) : (applyReset s).resets = s.resets + 1 := rfl

/-! ### Read-outs of an updated state -/

@[simp] theorem State.respond_rxpByte (s : State) (r : Response) (i : Nat) : (s.respond r).rxpByte i = s.rxpByte i := rfl
@[simp] theorem State.respond_txpByte (s : State) (r : Response) (i : Nat) : (s.respond r).txpByte i = s.txpByte i := rfl
@[simp] theorem State.respond_slotEvent (s : State) (r : Response) (i : Nat) : (s.respond r).slotEvent i = s.slotEvent i := rfl
@[simp] theorem State.respond_qCount (s : State) (r : Response) : (s.respond r).qCount = s.qCount := rfl
@[simp] theorem State.respond_txPayload (s : State) (r : Response) : (s.respond r).txPayload = s.txPayload := rfl
@[simp] theorem present_rxpByte (x : Input) (s : State) (i : Nat) : (present x s).rxpByte i = s.rxpByte i := rfl
@[simp] theorem present_txpByte (x : Input) (s : State) (i : Nat) : (present x s).txpByte i = s.txpByte i := rfl
@[simp] theorem present_slotEvent (x : Input) (s : State) (i : Nat) : (present x s).slotEvent i = s.slotEvent i := rfl
@[simp] theorem present_qCount (x : Input) (s : State) : (present x s).qCount = s.qCount := rfl
@[simp] theorem present_txPayload (x : Input) (s : State) : (present x s).txPayload = s.txPayload := rfl
@[simp] theorem rxClear_rxpByte (s : State) (i : Nat) : (rxClear s).rxpByte i = s.rxpByte i := rfl
@[simp] theorem rxClear_txpByte (s : State) (i : Nat) : (rxClear s).txpByte i = s.txpByte i := rfl
@[simp] theorem rxClear_slotEvent (s : State) (i : Nat) : (rxClear s).slotEvent i = s.slotEvent i := rfl
@[simp] theorem rxClear_qCount (s : State) : (rxClear s).qCount = s.qCount := rfl
@[simp] theorem rxClear_txPayload (s : State) : (rxClear s).txPayload = s.txPayload := rfl

/-- A second response replaces the first. -/
@[simp] theorem State.respond_respond (s : State) (r r' : Response) : (s.respond r).respond r' = s.respond r' := rfl

end Sys2Proof.Machine
end

