-- ==== Sys2Proof/Tests/Slice0.lean ====
section
/-! SUPPORT. Tests of the model on the spec's own vectors (95_test_vectors.md), the smoke tests of WellFormed, and a witness for the
hypotheses of each statement of Certificates/Slice0/Obligations.lean. -/

namespace Sys2Proof.Tests

open Sys2Proof Sys2Proof.Machine

/-- The next state of an outcome, if it is one. -/
def nextOf (o : Host.Outcome State Fault Refusal) : Option State :=
  match o with
  | .next t => some t
  | .fault _ => none
  | .refused _ => none

/-- The response word after an operation. -/
def answer (i : Instr) (s : State) : Option Word :=
  (nextOf (exec i s)).bind fun t => t.resp.map Response.word

/-! ### WellFormed: one ill-formed word for each check of R72 -/

theorem test_unknown_op_refused :
    (OpFields.ofWord 0x7000).opKnown = false ∧ (OpFields.ofWord 0x7000).wellFormed = false ∧
      decode 0x7000 = .error .unknownOp := by decide

theorem test_nonzero_zero_field_refused :
    (OpFields.ofWord 0x9200).zeroClear = false ∧ (OpFields.ofWord 0x9200).wellFormed = false ∧
      decode 0x9200 = .error .nonzeroZero := by decide

theorem test_stray_arg8_refused :
    (OpFields.ofWord 0x1100).arg8Clear = false ∧ (OpFields.ofWord 0x1100).wellFormed = false ∧
      decode 0x1100 = .error .strayArg8 := by decide

theorem test_stray_arg_refused :
    (OpFields.ofWord 0x6001).argClear = false ∧ (OpFields.ofWord 0x6001).wellFormed = false ∧
      decode 0x6001 = .error .strayArg := by decide

theorem test_idle_port_words_reserved : decode 0x0000 = .error .unknownOp ∧ decode 0xFFFF = .error .nonzeroZero := by decide

/-! ### Decoding: words written out bit by bit from the patterns of R70 -/

theorem test_decode_rxb : decode 0b0001_000_0_00111010 = .ok (.rxb 0x3A) := by decide
theorem test_decode_abort : decode 0b0010_000_0_00000000 = .ok .abort := by decide
theorem test_decode_modek : decode 0b0011_000_0_00000000 = .ok .modek := by decide
theorem test_decode_txnew : decode 0b0100_000_0_00100000 = .ok (.txnew 0x20) := by decide
theorem test_decode_txapp : decode 0b0101_000_0_00000111 = .ok (.txapp 0x07) := by decide
theorem test_decode_txenc : decode 0b0110_000_0_00000000 = .ok .txenc := by decide
theorem test_decode_push_down : decode 0b1000_000_0_00000100 = .ok (.push .down 0x04) := by decide
theorem test_decode_push_up : decode 0b1000_000_1_11111111 = .ok (.push .up 0xFF) := by decide
theorem test_decode_pop : decode 0b1001_000_0_00000000 = .ok .pop := by decide
theorem test_table_word : decodeTableWord 16 0x50AA = some (.txapp 0xAA) ∧ decodeTableWord 16 0x7000 = none := by decide

/-! ### States for the tests -/

/-- After reset and `MODEK`. -/
def keyboard : State := { State.reset with mode := .keyboard }

/-- Nine events held, indices 9 and 0 (V36). -/
def full : State :=
  { keyboard with wr := 9, slot := (List.range 9).map fun k => (k, ⟨.down, BitVec.ofNat 8 (k + 4)⟩) }

/-- A frame of length 1 whose payload byte is awaited (V22 after four bytes). -/
def awaitingData : State := { State.reset with rxState := .data, rxLen := 1, rxCmd := 0x20, rxCsum := 0x21 }

/-- The same frame when its checksum is awaited (V22 after five bytes). -/
def awaitingChecksum : State :=
  { awaitingData with rxState := .checksum, rxCsum := 0x28, rxCnt := 1, rxp := [(0, 0x07)] }

/-- The second length byte is awaited and the first was `lo`. -/
def awaitingLenHigh (lo : Byte) : State :=
  { State.reset with rxState := .lenHigh, rxLen := lo.setWidth 16, rxCsum := lo }

/-- The transmit payload is full (V17). -/
def txFull : State := { State.reset with txLen := 128, txp := (List.range 128).map fun k => (k, BitVec.ofNat 8 k) }

/-- After the capacity fault (V18). -/
def faulted : State := { txFull with fault := true }

/-! ### One step on the spec's vectors -/

/-- V22, last byte: `Received`; the computed checksum is kept. -/
theorem test_rxb_received : answer (.rxb 0xD8) awaitingChecksum = some 0x1000 ∧
    (nextOf (exec (.rxb 0xD8) awaitingChecksum)).map (·.rxCsum) = some 0xD8 := by decide

/-- V24, last byte: `InvalidChecksum`; the received byte is not kept. -/
theorem test_rxb_invalid : answer (.rxb 0xD9) awaitingChecksum = some 0x2000 ∧
    (nextOf (exec (.rxb 0xD9) awaitingChecksum)).map (·.rxCsum) = some 0xD8 := by decide

/-- V25: a declared length of 129 is oversize, and stays readable. -/
theorem test_rxb_oversize : answer (.rxb 0x00) (awaitingLenHigh 0x81) = some 0x0800 ∧
    (nextOf (exec (.rxb 0x00) (awaitingLenHigh 0x81))).map (·.rxLen) = some 129 := by decide

/-- V31: `ABORT` in mid-frame leaves the stale header and the queue. -/
theorem test_abort_keeps_header :
    (nextOf (exec .abort { awaitingData with mode := .keyboard, wr := 1 })).map
      (fun t => (t.rxState, t.rxLen, t.rxCsum, t.mode, t.wr)) = some (.init, 1, 0x21, .negotiating, 1) := by decide

/-- R151: `MODEK` opens the gate that the same `PUSH` met closed. -/
theorem test_modek : (nextOf (exec .modek State.reset)).map (·.mode) = some .keyboard ∧
    answer (.push .down 0x04) State.reset = some 0x0000 ∧ answer (.push .down 0x04) keyboard = some 0x0400 := by decide

/-- R112: `TXNEW` on a frame being filled discards the payload; the bytes stay stored. -/
theorem test_txnew_keeps_bytes :
    (nextOf (exec (.txnew 0x04) { State.reset with txLen := 1, txp := [(0, 0x07)] })).map
      (fun t => (t.txCmd, t.txLen, t.txp)) = some (0x04, 0, [(0, 0x07)]) := by decide

/-- R113: the 128th append succeeds, the 129th raises the capacity fault (V18). -/
theorem test_txapp_last_byte :
    (nextOf (exec (.txapp 0x7F) { State.reset with txLen := 127 })).map (fun t => (t.txLen, t.txp)) =
      some (128, [(127, 0x7F)]) := by decide
theorem test_txapp_capacity_fault : answer (.txapp 0xAA) txFull = some 0xC000 ∧
    (nextOf (exec (.txapp 0xAA) txFull)).map (fun t => (t.fault, t.txLen)) = some (true, 128) := by decide

/-- V14: the wire buffer of a report-key frame. -/
theorem test_txenc_report_key :
    ((nextOf (exec .txenc { State.reset with txCmd := 0x51, txLen := 2, txp := [(0, 0x2C), (1, 0x00)] })).bind (·.resp)).map
      (·.wire) = some [0x3A, 0x02, 0x00, 0x51, 0x2C, 0x00, 0x81] := by decide

/-- V38: `wr` wraps from 9 to 0; V36: the tenth event is dropped. -/
theorem test_push_wraps :
    (nextOf (exec (.push .up 0x12) { keyboard with wr := 9, rd := 7 })).map (fun t => (t.wr, t.slot)) =
      some (0, [(9, ⟨.up, 0x12⟩)]) := by decide
theorem test_push_full_dropped : answer (.push .up 0x0D) full = some 0x0000 ∧
    (nextOf (exec (.push .up 0x0D) full)).map (fun t => (t.wr, t.slot)) = some (9, full.slot) := by decide

/-- R77: `POP` returns the event in the response, in `Negotiating` mode too (V41); an empty queue says so (V37). -/
theorem test_pop_up_event :
    answer .pop { State.reset with wr := 1, rd := 0, slot := [(0, ⟨.up, 0x05⟩)] } = some 0x0105 := by decide
theorem test_pop_empty : answer .pop State.reset = some 0x0200 := by decide

/-- V45: `FAULTED` wins over `ILLEGAL`; V44: a reserved word is `ILLEGAL`. -/
theorem test_reserved_words :
    ((nextOf (step (present (.word 0x0000) faulted))).bind (·.resp)).map Response.word = some 0x8000 ∧
      ((nextOf (step (present (.word 0x0000) State.reset))).bind (·.resp)).map Response.word = some 0x4000 := by decide

/-- P5: reset leaves the faulted state. -/
theorem test_reset_clears_fault :
    (nextOf (step (present .reset faulted))).map (fun t => (t.fault, t.txLen, t.txp, t.resp)) =
      some (false, 0, [], none) := by decide

/-- A presented table word is what the next step runs. -/
theorem test_fetch_word :
    (nextOf (step (State.reset.withFetchWord 16 0x3000))).map (fun t => (t.mode, t.pending)) = some (.keyboard, []) := by decide

/-! ### Witnesses: the hypotheses of each statement are met by a concrete state -/

theorem keyboard_inv : StateInv keyboard := by constructor <;> decide
theorem hunting_sync_inv : StateInv { keyboard with rxState := .sync } := by constructor <;> decide
theorem awaitingData_inv : StateInv awaitingData := by constructor <;> decide
theorem awaitingChecksum_inv : StateInv awaitingChecksum := by constructor <;> decide
theorem lenLow_inv : StateInv { State.reset with rxState := .lenLow } := by constructor <;> decide
theorem full_inv : StateInv full := by constructor <;> decide
theorem faulted_inv : StateInv faulted := by constructor <;> decide

theorem witness_EncodeInvertsDecode : decode 0x81FF = .ok (.push .up 0xFF) := by decide

theorem witness_StepRunsPresentedOperation :
    (present (.word 0x9000) State.reset).pending = .word 0x9000 :: [] ∧ decode 0x9000 = .ok .pop := by decide

theorem witness_StepIdlesWithoutInput : keyboard.pending = [] := rfl

theorem witness_ReservedWordRefused_running :
    (present (.word 0x7000) keyboard).pending = .word 0x7000 :: [] ∧ decode 0x7000 = .error .unknownOp ∧
      (present (.word 0x7000) keyboard).fault = false := by decide

theorem witness_ReservedWordRefused_faulted :
    (present (.word 0x7000) faulted).pending = .word 0x7000 :: [] ∧ decode 0x7000 = .error .unknownOp ∧
      (present (.word 0x7000) faulted).fault = true := by decide

theorem witness_FaultedBlockRefusesEverything_word :
    (present (.word 0x2000) faulted).fault = true ∧ (present (.word 0x2000) faulted).pending = .word 0x2000 :: [] := by decide

theorem witness_FaultedBlockRefusesEverything_reset :
    ∃ t, (present .reset faulted).fault = true ∧ step (present .reset faulted) = .next t ∧ t.fault = false :=
  ⟨_, rfl, rfl, rfl⟩

theorem witness_ResetPutsRegistersAtResetValues : (present .reset full).pending = .reset :: [] := rfl

theorem witness_ResponseFields_faulted :
    ∃ t r, exec .pop faulted = .next t ∧ t.resp = some r ∧ r.status ≠ .ok ∧ faulted.fault = true :=
  ⟨_, _, rfl, rfl, by decide, rfl⟩

theorem witness_ResponseFields_capfault :
    ∃ t r, exec (.txapp 0xAA) txFull = .next t ∧ t.resp = some r ∧ r.status = .capfault :=
  ⟨_, _, rfl, rfl, rfl⟩

theorem witness_ResponseFields_result :
    ∃ t r, exec (.rxb 0xD8) awaitingChecksum = .next t ∧ t.resp = some r ∧ r.result ≠ .receiving :=
  ⟨_, _, rfl, rfl, by decide⟩

theorem witness_ResponseFields_accepted :
    ∃ t r, exec (.push .up 0xFF) keyboard = .next t ∧ t.resp = some r ∧ r.accepted = true :=
  ⟨_, _, rfl, rfl, rfl⟩

theorem witness_ResponseFields_empty :
    ∃ t r, exec .pop State.reset = .next t ∧ t.resp = some r ∧ r.empty = true :=
  ⟨_, _, rfl, rfl, rfl⟩

theorem witness_ResponseFields_event :
    ∃ t r, exec .pop full = .next t ∧ t.resp = some r ∧ r.event ≠ ⟨.down, 0⟩ :=
  ⟨_, _, rfl, rfl, by decide⟩

theorem witness_ResponseFields_wire :
    ∃ t r, exec .txenc State.reset = .next t ∧ t.resp = some r ∧ r.wire ≠ [] :=
  ⟨_, _, rfl, rfl, by decide⟩

theorem witness_CapacityFault_effect : txFull.fault = false ∧ txFull.txLen.val = 128 := by decide

theorem witness_CapacityFault_onlyCause :
    ∃ t, step (present (.word 0x50AA) txFull) = .next t ∧ (present (.word 0x50AA) txFull).fault = false ∧ t.fault = true :=
  ⟨_, rfl, rfl, rfl⟩

theorem witness_RxbInitArm : State.reset.fault = false ∧ State.reset.rxState = .init := by decide

theorem witness_RxbSyncArm : ({ keyboard with rxState := .sync } : State).fault = false ∧
    ({ keyboard with rxState := .sync } : State).rxState = .sync := by decide

theorem witness_RxbLenLowArm : StateInv { State.reset with rxState := .lenLow } ∧
    ({ State.reset with rxState := .lenLow } : State).fault = false ∧
      ({ State.reset with rxState := .lenLow } : State).rxState = .lenLow := ⟨lenLow_inv, rfl, rfl⟩

theorem witness_RxbLenHighArm : (awaitingLenHigh 0x80).fault = false ∧ (awaitingLenHigh 0x80).rxState = .lenHigh := by decide

/-- The two outcomes of R93 at the boundary: 128 goes on, 129 does not; a high byte of 1 does not either. -/
theorem witness_RxbLenHighArm_accepted :
    (nextOf (exec (.rxb 0) (awaitingLenHigh 0x80))).map (fun t => (t.rxLen.toNat, t.rxState)) = some (128, .command) := by decide
theorem witness_RxbLenHighArm_oversize :
    (nextOf (exec (.rxb 0) (awaitingLenHigh 0x81))).map (fun t => (t.rxLen.toNat, t.rxState)) = some (129, .init) ∧
      (nextOf (exec (.rxb 1) (awaitingLenHigh 0x00))).map (fun t => (t.rxLen.toNat, t.rxState)) = some (256, .init) := by decide

/-- The command byte is awaited, after a declared length. -/
def awaitingCommand (len : BitVec 16) : State := { State.reset with rxState := .command, rxLen := len }

theorem witness_RxbCommandArm_empty : (awaitingCommand 0).fault = false ∧ (awaitingCommand 0).rxState = .command ∧
    (awaitingCommand 0).rxLen = 0 := by decide
theorem witness_RxbCommandArm_payload : (awaitingCommand 1).fault = false ∧ (awaitingCommand 1).rxState = .command ∧
    (awaitingCommand 1).rxLen ≠ 0 := by decide

/-- The last index of `RXP`, at the greatest length. -/
theorem witness_RxbDataArm :
    ({ awaitingData with rxLen := 128, rxCnt := 127 } : State).fault = false ∧
      ({ awaitingData with rxLen := 128, rxCnt := 127 } : State).rxState = .data ∧
      ({ awaitingData with rxLen := 128, rxCnt := 127 } : State).rxCnt.val < 128 := by decide

theorem witness_RxbChecksumArm : awaitingChecksum.fault = false ∧ awaitingChecksum.rxState = .checksum := by decide

theorem witness_RxbStopsPastTheBuffer :
    ({ awaitingData with rxCnt := 128 } : State).fault = false ∧ ({ awaitingData with rxCnt := 128 } : State).rxState = .data ∧
      ({ awaitingData with rxCnt := 128 } : State).rxCnt.val = 128 := by decide

theorem witness_RxbFrame : ∃ t, exec (.rxb 0x07) awaitingData = .next t ∧
    ¬(awaitingData.fault = false ∧ awaitingData.rxState = .data ∧ 1 = awaitingData.rxCnt.val) :=
  ⟨_, rfl, by decide⟩

theorem witness_RxStateWriters_rxb :
    ∃ t, step (present (.word 0x103A) keyboard) = .next t ∧ t.rxState ≠ (present (.word 0x103A) keyboard).rxState :=
  ⟨_, rfl, by decide⟩
theorem witness_RxStateWriters_reset :
    ∃ t, step (present .reset awaitingData) = .next t ∧ t.rxState ≠ (present .reset awaitingData).rxState :=
  ⟨_, rfl, by decide⟩

theorem witness_FinalResults_checksum :
    ∃ t r, exec (.rxb 0xD9) awaitingChecksum = .next t ∧ t.resp = some r ∧ r.result ≠ .receiving :=
  ⟨_, _, rfl, rfl, by decide⟩
theorem witness_FinalResults_oversize :
    ∃ t r, exec (.rxb 0) (awaitingLenHigh 0x81) = .next t ∧ t.resp = some r ∧ r.oversize = true :=
  ⟨_, _, rfl, rfl, by decide⟩

/-- The read-out at the boundary of its two clauses: lengths 128 and 129. -/
theorem witness_ReceivedFrameSurvives_readOut :
    ({ State.reset with rxLen := 128 } : State).rxLen.toNat ≤ 128 ∧
      ({ State.reset with rxLen := 128 } : State).frameReadOut.isSome = true ∧
      128 < ({ State.reset with rxLen := 129 } : State).rxLen.toNat ∧
      ({ State.reset with rxLen := 129 } : State).frameReadOut = none := by decide

/-- V22 read out: `(0x20, 1, [0x07], 0xD8)` after its last byte. -/
theorem test_frame_read_out : (nextOf (exec (.rxb 0xD8) awaitingChecksum)).bind (·.frameReadOut) =
    some (0x20, 1, [0x07], 0xD8) := by decide

theorem witness_ReceivedFrameSurvives_abort :
    ∃ t, exec .abort awaitingChecksum = .next t ∧ ∀ b, Instr.abort ≠ .rxb b :=
  ⟨_, rfl, fun _ h => by cases h⟩

theorem witness_ReceivedFrameSurvives_other :
    ∃ t, exec .modek awaitingChecksum = .next t ∧ (∀ b, Instr.modek ≠ .rxb b) ∧ Instr.modek ≠ .abort :=
  ⟨_, rfl, (fun _ h => by cases h), by decide⟩

/-- The frame of V21, length 0; the frame of V22, length 1. -/
theorem witness_validFrame_empty : ValidFrame [0x3A, 0x00, 0x00, 0x04, 0xFC] := by
  unfold ValidFrame; decide
theorem witness_validFrame_one : ValidFrame [0x3A, 0x01, 0x00, 0x20, 0x07, 0xD8] := by
  unfold ValidFrame; decide

theorem witness_ValidFrameIsReceived :
    ValidFrame [0x3A, 0x01, 0x00, 0x20, 0x07, 0xD8] ∧ StateInv keyboard ∧ Hunting keyboard :=
  ⟨witness_validFrame_one, keyboard_inv, rfl, .inl rfl⟩

theorem witness_LastByteDecidesTheResult :
    ([0x07] : List Byte).length ≤ 128 ∧ StateInv { keyboard with rxState := .sync } ∧
      Hunting { keyboard with rxState := .sync } :=
  ⟨by decide, hunting_sync_inv, rfl, .inr rfl⟩

/-- The command byte (index 3), a payload byte and the checksum byte (the last index). -/
theorem witness_SingleCorruptedByteIsDetected :
    ValidFrame [0x3A, 0x01, 0x00, 0x20, 0x07, 0xD8] ∧ StateInv keyboard ∧ Hunting keyboard ∧
      (∀ n ∈ [3, 4, 5], 3 ≤ n ∧ n < [0x3A, 0x01, 0x00, 0x20, 0x07, 0xD8].length ∧
        ([0x3A, 0x01, 0x00, 0x20, 0x07, 0xD8] : List Byte)[n]? ≠ some 0xFF) :=
  ⟨witness_validFrame_one, keyboard_inv, ⟨rfl, .inl rfl⟩, by decide⟩

/-- V32a: one byte plus 1, another minus 1. -/
theorem witness_CompensatingErrorsAreNotDetected :
    ([0x10, 0x20] : List Byte).length ≤ 128 ∧ ([0x11, 0x1F] : List Byte).length = ([0x10, 0x20] : List Byte).length ∧
      sum8 [0x20, 0x10, 0x20] = sum8 [0x20, 0x11, 0x1F] ∧ StateInv keyboard ∧ Hunting keyboard :=
  ⟨by decide, by decide, by decide, keyboard_inv, rfl, .inl rfl⟩

/-- Both clauses at their boundary: declared lengths 129 and 128, and the longest rest. -/
theorem witness_ReceiverReturnsToInit :
    (StateInv { State.reset with rxState := .lenLow } ∧ ({ State.reset with rxState := .lenLow } : State).fault = false ∧
        ({ State.reset with rxState := .lenLow } : State).rxState = .lenLow) ∧
      128 < (0x81 : Byte).toNat + 256 * (0x00 : Byte).toNat ∧
      (0x80 : Byte).toNat + 256 * (0x00 : Byte).toNat ≤ 128 ∧
      (List.replicate 130 (0x00 : Byte)).length ≤ (0x80 : Byte).toNat + 256 * (0x00 : Byte).toNat + 2 :=
  ⟨⟨lenLow_inv, rfl, rfl⟩, by decide, by decide, by simp⟩

theorem witness_StalledReceiverStays :
    ∀ x ∈ ({ awaitingData with pending := [.word 0x9000, .word 0x0000] } : State).pending,
      ∃ w, x = .word w ∧ (∀ b, decode w ≠ .ok (.rxb b)) ∧ decode w ≠ .ok .abort := by
  intro x hx
  simp only [List.mem_cons, List.not_mem_nil, or_false] at hx
  rcases hx with rfl | rfl
  · exact ⟨_, rfl, (fun b h => by rw [show decode 0x9000 = .ok .pop by decide] at h; cases h), by decide⟩
  · exact ⟨_, rfl, (fun b h => by rw [show decode 0x0000 = .error .unknownOp by decide] at h; cases h), by decide⟩

/-- `fault = 0`, the hypothesis of TxnewStartsAFrame, TxencEncodesTheFrame, ModekEntersKeyboard, AbortResetsReceiverAndMode. -/
theorem witness_running : awaitingData.fault = false := rfl

theorem witness_TxappAppendsOrFaults :
    ({ State.reset with txLen := 127 } : State).fault = false ∧ ({ State.reset with txLen := 127 } : State).txLen.val < 128 ∧
      txFull.fault = false ∧ txFull.txLen.val = 128 := by decide

theorem witness_TransmitFrame :
    (∃ t, exec (.txnew 0x40) txFull = .next t) ∧ (∃ t, exec (.txapp 0xAA) txFull = .next t) ∧ ∃ t, exec .txenc txFull = .next t :=
  ⟨⟨_, rfl⟩, ⟨_, rfl⟩, ⟨_, rfl⟩⟩

theorem witness_EncodedWireIsValidAndReceived :
    (∃ t r, exec .txenc State.reset = .next t ∧ t.resp = some r ∧ r.status = .ok) ∧ StateInv keyboard ∧ Hunting keyboard :=
  ⟨⟨_, _, rfl, rfl, rfl⟩, keyboard_inv, rfl, .inl rfl⟩

theorem witness_TxframeBuildsTheWireFrame : keyboard.fault = false ∧ (List.replicate 128 (0xFF : Byte)).length ≤ 128 :=
  ⟨rfl, by simp⟩

theorem witness_AppendingPastCapacityFaults : keyboard.fault = false ∧ (List.replicate 128 (0xFF : Byte)).length = 128 :=
  ⟨rfl, by simp⟩

theorem witness_ChecksumGeneratorLaws : ([0x01, 0x02] : List Byte).Perm [0x02, 0x01] := .swap _ _ _

theorem witness_PushStoresOrDrops :
    (keyboard.fault = false ∧ keyboard.mode = .keyboard ∧ (keyboard.wr.val + 1) % 10 ≠ keyboard.rd.val) ∧
      (State.reset.fault = false ∧ State.reset.mode = .negotiating) ∧
      (full.fault = false ∧ (full.wr.val + 1) % 10 = full.rd.val) := by decide

theorem witness_PopReturnsOldestOrEmpty :
    (full.fault = false ∧ full.wr ≠ full.rd) ∧ (keyboard.fault = false ∧ keyboard.wr = keyboard.rd) := by decide

theorem witness_QueueFrame : (∃ t, exec (.push .up 0x01) keyboard = .next t) ∧ ∃ t, exec .pop full = .next t :=
  ⟨⟨_, rfl⟩, ⟨_, rfl⟩⟩

theorem witness_QueueCount_push :
    ∃ t r, exec (.push .up 0x01) keyboard = .next t ∧ t.resp = some r ∧ r.accepted = true :=
  ⟨_, _, rfl, rfl, rfl⟩
theorem witness_QueueCount_pop :
    ∃ t r, exec .pop full = .next t ∧ t.resp = some r ∧ r.status = .ok ∧ r.empty = false :=
  ⟨_, _, rfl, rfl, rfl, rfl⟩
theorem witness_QueueCount_otherwise :
    ∃ t r, exec (.push .up 0x01) full = .next t ∧ t.resp = some r ∧ r.accepted = false :=
  ⟨_, _, rfl, rfl, rfl⟩

theorem witness_SacrificedSlotIsNotWritten : ∃ t, exec (.push .up 0x01) keyboard = .next t := ⟨_, rfl⟩

theorem witness_QueueIsFirstInFirstOut :
    (feed ([.modek, .push .up 0x01, .pop].map opInput) State.reset).isSome = true := by decide

theorem witness_QueueAcceptsExactlyNine :
    ({ keyboard with wr := 7, rd := 7 } : State).fault = false ∧ ({ keyboard with wr := 7, rd := 7 } : State).mode = .keyboard ∧
      ({ keyboard with wr := 7, rd := 7 } : State).wr = ({ keyboard with wr := 7, rd := 7 } : State).rd ∧
      (List.replicate 9 (⟨.up, 0x01⟩ : KeyEvent)).length = 9 := by decide

theorem witness_SessionFrame : (∃ t, exec .modek awaitingData = .next t) ∧ ∃ t, exec .abort awaitingData = .next t :=
  ⟨⟨_, rfl⟩, ⟨_, rfl⟩⟩

theorem witness_ModeTransitions_keyboard :
    ∃ t, step (present (.word 0x3000) State.reset) = .next t ∧ t.mode ≠ (present (.word 0x3000) State.reset).mode :=
  ⟨_, rfl, by decide⟩
theorem witness_ModeTransitions_negotiating :
    ∃ t, step (present (.word 0x2000) keyboard) = .next t ∧ t.mode ≠ (present (.word 0x2000) keyboard).mode :=
  ⟨_, rfl, by decide⟩

theorem witness_RepeatableOperations : ∃ t, exec (.txnew 0x20) txFull = .next t := ⟨_, rfl⟩

theorem witness_StepKeepsTheInvariants : ∃ t, StateInv full ∧ step full = .next t := ⟨_, full_inv, rfl⟩

theorem witness_EveryOperationCompletes : StateInv awaitingData ∧ StateInv awaitingChecksum ∧ StateInv faulted :=
  ⟨awaitingData_inv, awaitingChecksum_inv, faulted_inv⟩

theorem witness_UnwrittenElementsAreNeverRead :
    StateInv (present (.word 0x6000) keyboard) ∧ (present (.word 0x6000) keyboard).pending = .word 0x6000 :: [] :=
  ⟨by constructor <;> decide, rfl⟩

/-- `TXENC` on one payload byte, where elements that nothing has written are given values in all three arrays. -/
theorem witness_StepIgnoresUnwrittenElements :
    let s := present (.word 0x6000) { keyboard with txLen := 1, txp := [(0, 0x07)] }
    let u := { s with rxp := [(127, 0x11)], txp := [(0, 0x07), (1, 0xAA)], slot := [(9, ⟨.up, 0x22⟩)], resets := 3 }
    StateInv s ∧ SameButUnwritten s u ∧ u ≠ s := by
  refine ⟨by constructor <;> decide, ⟨rfl, ?_, ?_, ?_⟩, by decide⟩
  · exact Memory.extends_nil _
  · exact Memory.Extends.of_unlisted (m := [(0, 0x07)]) (a := 1) 0xAA rfl
  · exact Memory.extends_nil _

end Sys2Proof.Tests
end

section
/-! SUPPORT. What each operation can answer, one inversion lemma each, and where an operation answers at all. -/

namespace Sys2Proof.Machine

/-- The guard stops nothing: an operation answers where its rule does. -/
theorem whenRunning_answers {s : State} {rule : State → Host.Outcome State Fault Refusal}
    (h : ∃ t, rule s = .next t) : ∃ t, whenRunning s rule = .next t := by
  unfold whenRunning
  split
  · exact ⟨_, rfl⟩
  · exact h

/-- What `ABORT` can answer: the refusal while faulted, or the abort (R153). -/
theorem execAbort_next {s t : State} (h : execAbort s = .next t) :
    (s.fault = true ∧ t = s.respond (Response.ofStatus .faulted)) ∨
    (s.fault = false ∧ t = { s with rxState := .init, mode := .negotiating }.respond Response.blank) :=
  (whenRunning_next h).imp_right fun ⟨hf, h⟩ => ⟨hf, (Host.Outcome.next.inj h).symm⟩

/-- What `MODEK` can answer: the refusal while faulted, or the new mode (R151). -/
theorem execModek_next {s t : State} (h : execModek s = .next t) :
    (s.fault = true ∧ t = s.respond (Response.ofStatus .faulted)) ∨
    (s.fault = false ∧ t = { s with mode := .keyboard }.respond Response.blank) :=
  (whenRunning_next h).imp_right fun ⟨hf, h⟩ => ⟨hf, (Host.Outcome.next.inj h).symm⟩

/-- What `TXNEW` can answer: the refusal while faulted, or the empty frame (R112). -/
theorem execTxnew_next {c : Byte} {s t : State} (h : execTxnew c s = .next t) :
    (s.fault = true ∧ t = s.respond (Response.ofStatus .faulted)) ∨
    (s.fault = false ∧ t = { s with txCmd := c, txLen := 0 }.respond Response.blank) :=
  (whenRunning_next h).imp_right fun ⟨hf, h⟩ => ⟨hf, (Host.Outcome.next.inj h).symm⟩

/-- What `TXENC` can answer: the refusal while faulted, or the wire buffer (R114). -/
theorem execTxenc_next {s t : State} (h : execTxenc s = .next t) :
    (s.fault = true ∧ t = s.respond (Response.ofStatus .faulted)) ∨
    (s.fault = false ∧
      t = { s with txCsum := csum8 (summedBytes s.txCmd s.txPayload) }.respond
        { Response.blank with
          wire := wireBytes s.txCmd s.txPayload (csum8 (summedBytes s.txCmd s.txPayload)) }) :=
  (whenRunning_next h).imp_right fun ⟨hf, h⟩ => ⟨hf, (Host.Outcome.next.inj h).symm⟩

/-- What `PUSH` can answer: the refusal while faulted, the drop (R133, R134), or the store (R132). -/
theorem execPush_next {d : Direction} {u : Byte} {s t : State} (h : execPush d u s = .next t) :
    (s.fault = true ∧ t = s.respond (Response.ofStatus .faulted)) ∨
    (s.fault = false ∧ (s.mode ≠ .keyboard ∨ s.qFull = true) ∧ t = s.respond Response.blank) ∨
    (s.fault = false ∧ s.mode = .keyboard ∧ s.qFull = false ∧
      t = { s with slot := Memory.write s.slot s.wr.val ⟨d, u⟩, wr := inc10 s.wr }.respond
        { Response.blank with accepted := true }) := by
  obtain ⟨hf, ht⟩ | ⟨hf, h⟩ := whenRunning_next h
  · exact .inl ⟨hf, ht⟩
  · right
    split at h
    next hmode => exact .inl ⟨hf, .inl hmode, (Host.Outcome.next.inj h).symm⟩
    next hmode =>
      split at h
      next hfull => exact .inl ⟨hf, .inr hfull, (Host.Outcome.next.inj h).symm⟩
      next hfull =>
        exact .inr ⟨hf, not_not.mp hmode, Bool.eq_false_iff.mpr hfull, (Host.Outcome.next.inj h).symm⟩

/-- What `POP` can answer: the refusal while faulted, the empty answer (R137), or the oldest event (R136). -/
theorem execPop_next {s t : State} (h : execPop s = .next t) :
    (s.fault = true ∧ t = s.respond (Response.ofStatus .faulted)) ∨
    (s.fault = false ∧ s.qEmpty = true ∧ t = s.respond { Response.blank with empty := true }) ∨
    (s.fault = false ∧ s.qEmpty = false ∧
      t = { s with rd := inc10 s.rd }.respond { Response.blank with event := s.slotEvent s.rd.val }) := by
  obtain ⟨hf, ht⟩ | ⟨hf, h⟩ := whenRunning_next h
  · exact .inl ⟨hf, ht⟩
  · right
    split at h
    next hempty => exact .inl ⟨hf, hempty, (Host.Outcome.next.inj h).symm⟩
    next hempty => exact .inr ⟨hf, Bool.eq_false_iff.mpr hempty, (Host.Outcome.next.inj h).symm⟩

/-- What `TXAPP` can answer: the refusal while faulted, the append (R113), or the capacity fault (R166). -/
theorem execTxapp_next {b : Byte} {s t : State} (h : execTxapp b s = .next t) :
    (s.fault = true ∧ t = s.respond (Response.ofStatus .faulted)) ∨
    (s.fault = false ∧ ∃ room : s.txLen.val < 128,
      t = { s with
        txp := Memory.write s.txp s.txLen.val b
        txLen := ⟨s.txLen.val + 1, Nat.succ_lt_succ room⟩ }.respond Response.blank) ∨
    (s.fault = false ∧ s.txLen.val = 128 ∧
      t = { s with fault := true }.respond (Response.ofStatus .capfault)) := by
  obtain ⟨hf, ht⟩ | ⟨hf, h⟩ := whenRunning_next h
  · exact .inl ⟨hf, ht⟩
  · right
    split at h
    next room => exact .inl ⟨hf, room, (Host.Outcome.next.inj h).symm⟩
    next full =>
      have hlen : s.txLen.val = 128 := Nat.le_antisymm (Nat.lt_succ_iff.mp s.txLen.isLt) (not_lt.mp full)
      exact .inr ⟨hf, hlen, (Host.Outcome.next.inj h).symm⟩

/-- What the `Data` arm can answer: the store (R95). -/
theorem rxDataArm_next {b : Byte} {s t : State} (h : rxDataArm b s = .next t) :
    ∃ room : s.rxCnt.val < 128,
      t = { s with
        rxp := Memory.write s.rxp s.rxCnt.val b
        rxCsum := add8 s.rxCsum b
        rxCnt := ⟨s.rxCnt.val + 1, Nat.succ_lt_succ room⟩
        rxState := if s.rxCnt.val + 1 = s.rxLen.toNat then .checksum else .data }.respond Response.blank := by
  unfold rxDataArm at h
  split at h
  next room => exact ⟨room, (Host.Outcome.next.inj h).symm⟩
  next => cases h

/-- Every arm of the receive state machine writes receive registers, `RXP` and the response only (R85). -/
theorem rxArm_frame {b : Byte} {s t : State} (h : rxArm b s = .next t) :
    t = { s with
      rxState := t.rxState, rxLen := t.rxLen, rxCmd := t.rxCmd, rxCsum := t.rxCsum, rxCnt := t.rxCnt, rxp := t.rxp
      resp := t.resp } := by
  cases hst : s.rxState with
  | init => rw [rxArm_init b hst] at h; cases h; rfl
  | sync => rw [rxArm_sync b hst] at h; cases h; rfl
  | lenLow => rw [rxArm_lenLow b hst] at h; cases h; rfl
  | lenHigh => rw [rxArm_lenHigh b hst] at h; cases h; rfl
  | command => rw [rxArm_command b hst] at h; cases h; rfl
  | data =>
    rw [rxArm_data b hst] at h
    obtain ⟨_, rfl⟩ := rxDataArm_next h
    rfl
  | checksum => rw [rxArm_checksum b hst] at h; cases h; rfl

end Sys2Proof.Machine
end

section
/-! SUPPORT. Facts about the bit fields of a key event and of the payload length, and about the queue's indices. -/

namespace Sys2Proof

@[simp] theorem KeyEvent.toBits_bit8 (e : KeyEvent) : e.toBits.extractLsb' 8 1 = e.direction.toBit :=
  BitVec.extractLsb'_append_eq_left

@[simp] theorem KeyEvent.toBits_low (e : KeyEvent) : e.toBits.extractLsb' 0 8 = e.usage :=
  BitVec.extractLsb'_append_eq_right

theorem Direction.toBit_eq_zero_iff (d : Direction) : d.toBit = 0 ↔ d = .down := by cases d <;> decide

theorem Direction.toBit_eq_one_iff (d : Direction) : d.toBit = 1 ↔ d = .up := by cases d <;> decide

@[simp] theorem KeyEvent.ofBits_toBits (e : KeyEvent) : KeyEvent.ofBits e.toBits = e := by
  simp [KeyEvent.ofBits]

@[simp] theorem KeyEvent.toBits_ofBits (v : BitVec 9) : (KeyEvent.ofBits v).toBits = v := by
  simp only [KeyEvent.ofBits, KeyEvent.toBits, Direction.toBit_ofBit]
  rw [BitVec.extractLsb'_append_extractLsb'_eq_extractLsb' (by rfl), BitVec.extractLsb'_eq_self]

@[simp] theorem setLenLow_low (len : BitVec 16) (b : Byte) : (setLenLow len b).extractLsb' 0 8 = b :=
  BitVec.extractLsb'_append_eq_right

@[simp] theorem setLenHigh_low (len : BitVec 16) (b : Byte) :
    (setLenHigh len b).extractLsb' 0 8 = len.extractLsb' 0 8 :=
  BitVec.extractLsb'_append_eq_right

@[simp] theorem setLenHigh_high (len : BitVec 16) (b : Byte) : (setLenHigh len b).extractLsb' 8 8 = b :=
  BitVec.extractLsb'_append_eq_left

end Sys2Proof

namespace Sys2Proof.Machine

theorem SlotIndex.val_lt (i : SlotIndex) : i.val < 10 := i.isLt

theorem State.qCount_le (s : State) : s.qCount ≤ 9 := Nat.lt_succ_iff.mp (Nat.mod_lt _ (by decide))

theorem State.qEmpty_iff_qCount (s : State) : s.qEmpty = true ↔ s.qCount = 0 := by
  have hwr := SlotIndex.val_lt s.wr
  have hrd := SlotIndex.val_lt s.rd
  rw [s.qEmpty_iff, s.qCount_eq, Fin.ext_iff]
  omega

theorem State.qFull_iff_qCount (s : State) : s.qFull = true ↔ s.qCount = 9 := by
  have hwr := SlotIndex.val_lt s.wr
  have hrd := SlotIndex.val_lt s.rd
  rw [s.qFull_iff, s.qCount_eq]
  omega

@[simp] theorem State.held_length (s : State) : s.held.length = s.qCount := by
  simp [State.held]

/-- The slot behind the last held event is the one `wr` names (R24). -/
theorem State.rd_add_qCount (s : State) : (s.rd.val + s.qCount) % 10 = s.wr.val := by
  have hwr := SlotIndex.val_lt s.wr
  have hrd := SlotIndex.val_lt s.rd
  rw [s.qCount_eq]
  omega

/-- A queue that is not full holds one event more once `wr` is advanced (R139). -/
theorem State.qCount_advance_wr {s t : State} (hroom : s.qFull = false) (hwr : t.wr = inc10 s.wr) (hrd : t.rd = s.rd) :
    t.qCount = s.qCount + 1 := by
  have hnf : s.qCount ≠ 9 := fun h => by simp [s.qFull_iff_qCount.mpr h] at hroom
  have hwrlt := SlotIndex.val_lt s.wr
  have hrdlt := SlotIndex.val_lt s.rd
  rw [s.qCount_eq] at hnf
  rw [t.qCount_eq, s.qCount_eq, hwr, hrd, inc10_val]
  omega

/-- A queue that is not empty holds one event less once `rd` is advanced (R139). -/
theorem State.qCount_advance_rd {s t : State} (hheld : s.qEmpty = false) (hwr : t.wr = s.wr) (hrd : t.rd = inc10 s.rd) :
    t.qCount + 1 = s.qCount := by
  have hne : s.qCount ≠ 0 := fun h => by simp [s.qEmpty_iff_qCount.mpr h] at hheld
  have hwrlt := SlotIndex.val_lt s.wr
  have hrdlt := SlotIndex.val_lt s.rd
  rw [s.qCount_eq] at hne
  rw [t.qCount_eq, s.qCount_eq, hwr, hrd, inc10_val]
  omega

/-- A queue that is not full has `wr` away from the sacrificed slot (R26). -/
theorem State.sacrificed_ne_wr {s : State} (hroom : s.qFull = false) : (s.rd.val + 9) % 10 ≠ s.wr.val := by
  have hwr := SlotIndex.val_lt s.wr
  have hrd := SlotIndex.val_lt s.rd
  have hnf : (s.wr.val + 1) % 10 ≠ s.rd.val := fun h => by simp [s.qFull_iff.mpr h] at hroom
  omega

/-- Storing an event in one slot leaves the event in every other slot. -/
theorem State.slotEvent_of_write {s t : State} {a i : Nat} {e : KeyEvent} (hslot : t.slot = Memory.write s.slot a e)
    (hresets : t.resets = s.resets) (hi : i ≠ a) : t.slotEvent i = s.slotEvent i := by
  simp only [State.slotEvent, hslot, hresets, Memory.read_write_other _ _ hi]

end Sys2Proof.Machine
end

section
/-! SUPPORT. The invariants of R34 in three groups, each about the registers and the array of one part of the block, so that an
operation has to be shown to keep only the group it writes. `stateInv_iff` ties the groups to `StateInv`. -/

namespace Sys2Proof.Machine

/-- What the receive registers and `RXP` satisfy in each state of the receive state machine (I4 to I8 of R34, and R18). -/
def RxPhase (s : State) : RxState → Prop
  | .init => True
  | .sync | .lenLow => s.rxLen = 0 ∧ s.rxCmd = 0 ∧ s.rxCsum = 0
  | .lenHigh => s.rxLen.toNat ≤ 255 ∧ s.rxCmd = 0 ∧ s.rxCsum = s.rxLen.extractLsb' 0 8
  | .command => s.rxLen.toNat ≤ 128 ∧ s.rxCmd = 0 ∧
      s.rxCsum = add8 (s.rxLen.extractLsb' 0 8) (s.rxLen.extractLsb' 8 8)
  | .data => s.rxLen.toNat ≤ 128 ∧ s.rxCnt.val < s.rxLen.toNat ∧
      ∀ i, i < s.rxCnt.val → (Memory.read s.rxp i).isSome = true
  | .checksum => s.rxLen.toNat ≤ 128 ∧ ∀ i, i < s.rxLen.toNat → (Memory.read s.rxp i).isSome = true

/-- The invariants of the receive registers and `RXP`. -/
def ReceiveInv (s : State) : Prop :=
  Memory.wf 128 s.rxp = true ∧ RxPhase s s.rxState

/-- The invariants of `tx_len`, `fault` and `TXP` (I9 of R34, and R22). -/
def TransmitInv (s : State) : Prop :=
  (s.fault = true → s.txLen.val = 128) ∧ Memory.wf 128 s.txp = true ∧
    ∀ i, i < s.txLen.val → (Memory.read s.txp i).isSome = true

/-- The invariants of the queue indices and `SLOT` (R25). -/
def QueueInv (s : State) : Prop :=
  Memory.wf 10 s.slot = true ∧ ∀ k, k < s.qCount → (Memory.read s.slot ((s.rd.val + k) % 10)).isSome = true

theorem StateInv.receive {s : State} (h : StateInv s) : ReceiveInv s := by
  refine ⟨h.rxpForm, ?_⟩
  cases hst : s.rxState with
  | init => trivial
  | sync => exact h.headerCleared (.inl hst)
  | lenLow => exact h.headerCleared (.inr hst)
  | lenHigh => exact h.lowByteHeld hst
  | command => exact ⟨h.rxLenBounded (.inl hst), h.lengthSummed hst⟩
  | data => exact ⟨h.rxLenBounded (.inr (.inl hst)), h.rxCntBelowLen hst, h.rxpWritten hst⟩
  | checksum => exact ⟨h.rxLenBounded (.inr (.inr hst)), h.rxpComplete hst⟩

theorem StateInv.transmit {s : State} (h : StateInv s) : TransmitInv s :=
  ⟨h.faultOnlyWhenFull, h.txpForm, h.txpWritten⟩

theorem StateInv.queue {s : State} (h : StateInv s) : QueueInv s :=
  ⟨h.slotForm, h.slotWritten⟩

theorem RxState.toBits_le (r : RxState) : r.toBits.toNat ≤ 6 := by cases r <;> decide

/-- The three groups make up the invariants; I1 to I3 are in the types (U7). -/
theorem StateInv.of_groups {s : State} (hrx : ReceiveInv s) (htx : TransmitInv s) (hq : QueueInv s) : StateInv s := by
  obtain ⟨hrxp, hphase⟩ := hrx
  obtain ⟨hfault, htxp, htxw⟩ := htx
  obtain ⟨hslot, hslotw⟩ := hq
  exact
    { stateInRange := s.rxState.toBits_le
      indicesInRange := ⟨Nat.lt_succ_iff.mp s.wr.isLt, Nat.lt_succ_iff.mp s.rd.isLt⟩
      txLenBounded := Nat.lt_succ_iff.mp s.txLen.isLt
      rxLenBounded := by rintro (h | h | h) <;> rw [h] at hphase <;> exact hphase.1
      rxCntBelowLen := fun h => by rw [h] at hphase; exact hphase.2.1
      headerCleared := by rintro (h | h) <;> rw [h] at hphase <;> exact hphase
      lowByteHeld := fun h => by rw [h] at hphase; exact hphase
      lengthSummed := fun h => by rw [h] at hphase; exact hphase.2
      faultOnlyWhenFull := hfault
      rxpForm := hrxp
      txpForm := htxp
      slotForm := hslot
      rxpWritten := fun h => by rw [h] at hphase; exact hphase.2.2
      rxpComplete := fun h => by rw [h] at hphase; exact hphase.2
      txpWritten := htxw
      slotWritten := hslotw }

theorem stateInv_iff (s : State) : StateInv s ↔ ReceiveInv s ∧ TransmitInv s ∧ QueueInv s :=
  ⟨fun h => ⟨h.receive, h.transmit, h.queue⟩, fun ⟨hrx, htx, hq⟩ => .of_groups hrx htx hq⟩

theorem StateInv.respond {s : State} (h : StateInv s) (r : Response) : StateInv (s.respond r) :=
  .of_groups h.receive h.transmit h.queue

theorem StateInv.withPending {s : State} (h : StateInv s) (rest : List Input) : StateInv { s with pending := rest } :=
  .of_groups h.receive h.transmit h.queue

theorem StateInv.present {s : State} (h : StateInv s) (x : Input) : StateInv (present x s) :=
  h.withPending _

/-- The reset state is in `Init`, is not faulted, and has no element that must be written. -/
theorem StateInv.reset : StateInv State.reset := by
  have hcount : State.reset.qCount = 0 := by decide
  refine .of_groups ⟨rfl, trivial⟩ ⟨?_, rfl, ?_⟩ ⟨rfl, ?_⟩
  · rintro ⟨⟩
  · exact fun i hi => absurd hi (Nat.not_lt_zero i)
  · exact fun k hk => absurd (hcount ▸ hk) (Nat.not_lt_zero k)

theorem StateInv.applyReset (s : State) : StateInv (applyReset s) :=
  .of_groups StateInv.reset.receive StateInv.reset.transmit StateInv.reset.queue

/-! ### The receive state machine keeps the receive group -/

theorem rxSyncArm_keeps {b : Byte} {s t : State} (hwf : Memory.wf 128 s.rxp = true) (hphase : RxPhase s .sync)
    (h : rxSyncArm b s = .next t) : ReceiveInv t := by
  obtain rfl := Host.Outcome.next.inj h
  refine ⟨hwf, ?_⟩
  by_cases hb : b = Config.sync
  · simp only [State.respond_rxState, if_pos hb]
    exact hphase
  · simp only [State.respond_rxState, if_neg hb]
    exact hphase

theorem rxLenLowArm_keeps {b : Byte} {s t : State} (hwf : Memory.wf 128 s.rxp = true) (hphase : RxPhase s .lenLow)
    (h : rxLenLowArm b s = .next t) : ReceiveInv t := by
  obtain ⟨hlen, hcmd, hsum⟩ := hphase
  obtain rfl := Host.Outcome.next.inj h
  have hzero : s.rxLen.toNat = 0 := by simp [hlen]
  have hb := b.isLt
  refine ⟨hwf, ?_, hcmd, ?_⟩
  · simp only [State.respond_rxLen, setLenLow_toNat, hzero]
    omega
  · simp [hsum, add8]

theorem rxLenHighArm_keeps {b : Byte} {s t : State} (hwf : Memory.wf 128 s.rxp = true) (hphase : RxPhase s .lenHigh)
    (h : rxLenHighArm b s = .next t) : ReceiveInv t := by
  obtain ⟨-, hcmd, hsum⟩ := hphase
  obtain rfl := Host.Outcome.next.inj h
  refine ⟨hwf, ?_⟩
  cases hover : oversizeLength (setLenHigh s.rxLen b) with
  | true => simp only [State.respond_rxState, if_true, RxPhase]
  | false =>
    have hle : (setLenHigh s.rxLen b).toNat ≤ 128 := by
      rw [← not_lt, ← oversizeLength_iff, hover]
      decide
    have hsum' : add8 s.rxCsum b =
        add8 ((setLenHigh s.rxLen b).extractLsb' 0 8) ((setLenHigh s.rxLen b).extractLsb' 8 8) := by
      rw [setLenHigh_low, setLenHigh_high, hsum]
    exact ⟨hle, hcmd, hsum'⟩

theorem rxCommandArm_keeps {b : Byte} {s t : State} (hwf : Memory.wf 128 s.rxp = true) (hphase : RxPhase s .command)
    (h : rxCommandArm b s = .next t) : ReceiveInv t := by
  obtain ⟨hle, -, -⟩ := hphase
  obtain rfl := Host.Outcome.next.inj h
  refine ⟨hwf, ?_⟩
  by_cases hlen : s.rxLen = 0
  · simp only [State.respond_rxState, if_pos hlen]
    refine ⟨hle, fun i hi => absurd hi ?_⟩
    simp [hlen]
  · have hpos : 0 < s.rxLen.toNat := Nat.pos_of_ne_zero fun h0 => hlen (BitVec.eq_of_toNat_eq h0)
    simp only [State.respond_rxState, if_neg hlen]
    exact ⟨hle, hpos, fun i hi => absurd hi (Nat.not_lt_zero i)⟩

theorem rxDataArm_keeps {b : Byte} {s t : State} (hwf : Memory.wf 128 s.rxp = true) (hphase : RxPhase s .data)
    (h : rxDataArm b s = .next t) : ReceiveInv t := by
  obtain ⟨hle, hcnt, hwritten⟩ := hphase
  obtain ⟨room, rfl⟩ := rxDataArm_next h
  have hwritten' : ∀ i, i < s.rxCnt.val + 1 →
      (Memory.read (Memory.write s.rxp s.rxCnt.val b) i).isSome = true := fun i hi =>
    Memory.isSome_read_write _ _ _ _ ((Nat.lt_succ_iff_lt_or_eq.mp hi).symm.imp_right (hwritten i))
  refine ⟨Memory.wf_write _ _ _ _ room hwf, ?_⟩
  by_cases hlast : s.rxCnt.val + 1 = s.rxLen.toNat
  · simp only [State.respond_rxState, if_pos hlast]
    exact ⟨hle, fun i hi => hwritten' i (hlast ▸ hi)⟩
  · simp only [State.respond_rxState, if_neg hlast]
    exact ⟨hle, Nat.lt_of_le_of_ne hcnt hlast, hwritten'⟩

theorem rxArm_keeps_receiveInv {b : Byte} {s t : State} (hinv : ReceiveInv s) (h : rxArm b s = .next t) :
    ReceiveInv t := by
  obtain ⟨hwf, hphase⟩ := hinv
  cases hst : s.rxState <;> rw [hst] at hphase
  case init =>
    rw [rxArm_init b hst] at h
    exact rxSyncArm_keeps (s := rxClear s) hwf ⟨rfl, rfl, rfl⟩ h
  case sync => exact rxSyncArm_keeps hwf hphase (rxArm_sync b hst ▸ h)
  case lenLow => exact rxLenLowArm_keeps hwf hphase (rxArm_lenLow b hst ▸ h)
  case lenHigh => exact rxLenHighArm_keeps hwf hphase (rxArm_lenHigh b hst ▸ h)
  case command => exact rxCommandArm_keeps hwf hphase (rxArm_command b hst ▸ h)
  case data => exact rxDataArm_keeps hwf hphase (rxArm_data b hst ▸ h)
  case checksum =>
    rw [rxArm_checksum b hst] at h
    obtain rfl := Host.Outcome.next.inj h
    exact ⟨hwf, trivial⟩

/-! ### Each operation keeps the invariants -/

theorem execRxb_keeps_stateInv {b : Byte} {s t : State} (hinv : StateInv s) (h : execRxb b s = .next t) :
    StateInv t := by
  obtain ⟨-, rfl⟩ | ⟨-, h⟩ := whenRunning_next h
  · exact hinv.respond _
  · have hrx := rxArm_keeps_receiveInv hinv.receive h
    have htx : TransmitInv t := by rw [rxArm_frame h]; exact hinv.transmit
    have hq : QueueInv t := by rw [rxArm_frame h]; exact hinv.queue
    exact .of_groups hrx htx hq

theorem execAbort_keeps_stateInv {s t : State} (hinv : StateInv s) (h : execAbort s = .next t) : StateInv t := by
  obtain ⟨-, rfl⟩ | ⟨-, rfl⟩ := execAbort_next h
  · exact hinv.respond _
  · exact .of_groups ⟨hinv.rxpForm, trivial⟩ hinv.transmit hinv.queue

theorem execModek_keeps_stateInv {s t : State} (hinv : StateInv s) (h : execModek s = .next t) : StateInv t := by
  obtain ⟨-, rfl⟩ | ⟨-, rfl⟩ := execModek_next h
  · exact hinv.respond _
  · exact .of_groups hinv.receive hinv.transmit hinv.queue

theorem execTxnew_keeps_stateInv {c : Byte} {s t : State} (hinv : StateInv s) (h : execTxnew c s = .next t) :
    StateInv t := by
  obtain ⟨-, rfl⟩ | ⟨hf, rfl⟩ := execTxnew_next h
  · exact hinv.respond _
  · have hfault : s.fault = true → 0 = 128 := fun h => by simp [hf] at h
    exact .of_groups hinv.receive ⟨hfault, hinv.txpForm, fun i hi => absurd hi (Nat.not_lt_zero i)⟩ hinv.queue

theorem execTxapp_keeps_stateInv {b : Byte} {s t : State} (hinv : StateInv s) (h : execTxapp b s = .next t) :
    StateInv t := by
  obtain ⟨-, rfl⟩ | ⟨hf, room, rfl⟩ | ⟨-, hfull, rfl⟩ := execTxapp_next h
  · exact hinv.respond _
  · have hfault : s.fault = true → s.txLen.val + 1 = 128 := fun h => by simp [hf] at h
    refine .of_groups hinv.receive ⟨hfault, Memory.wf_write _ _ _ _ room hinv.txpForm, fun i hi => ?_⟩ hinv.queue
    exact Memory.isSome_read_write _ _ _ _ ((Nat.lt_succ_iff_lt_or_eq.mp hi).symm.imp_right (hinv.txpWritten i))
  · exact .of_groups hinv.receive ⟨fun _ => hfull, hinv.txpForm, hinv.txpWritten⟩ hinv.queue

theorem execTxenc_keeps_stateInv {s t : State} (hinv : StateInv s) (h : execTxenc s = .next t) : StateInv t := by
  obtain ⟨-, rfl⟩ | ⟨-, rfl⟩ := execTxenc_next h
  · exact hinv.respond _
  · exact .of_groups hinv.receive hinv.transmit hinv.queue

theorem execPush_keeps_stateInv {d : Direction} {u : Byte} {s t : State} (hinv : StateInv s)
    (h : execPush d u s = .next t) : StateInv t := by
  obtain ⟨-, rfl⟩ | ⟨-, -, rfl⟩ | ⟨-, -, hroom, ht⟩ := execPush_next h
  · exact hinv.respond _
  · exact hinv.respond _
  · have hcount : t.qCount = s.qCount + 1 := State.qCount_advance_wr hroom (by rw [ht]; rfl) (by rw [ht]; rfl)
    subst ht
    refine .of_groups hinv.receive hinv.transmit ⟨Memory.wf_write _ _ _ _ s.wr.isLt hinv.slotForm, fun k hk => ?_⟩
    rw [hcount] at hk
    refine Memory.isSome_read_write _ _ _ _ ((Nat.lt_succ_iff_lt_or_eq.mp hk).symm.imp ?_ (hinv.slotWritten k))
    rintro rfl
    exact s.rd_add_qCount

theorem execPop_keeps_stateInv {s t : State} (hinv : StateInv s) (h : execPop s = .next t) : StateInv t := by
  obtain ⟨-, rfl⟩ | ⟨-, -, rfl⟩ | ⟨-, hheld, ht⟩ := execPop_next h
  · exact hinv.respond _
  · exact hinv.respond _
  · have hcount : t.qCount + 1 = s.qCount := State.qCount_advance_rd hheld (by rw [ht]; rfl) (by rw [ht]; rfl)
    subst ht
    refine .of_groups hinv.receive hinv.transmit ⟨hinv.slotForm, fun k hk => ?_⟩
    have hslot : (inc10 s.rd).val + k ≡ s.rd.val + (k + 1) [MOD 10] := by
      rw [inc10_val, Nat.ModEq]
      omega
    have hwritten := hinv.slotWritten (k + 1) (by omega)
    rwa [← hslot] at hwritten

theorem exec_keeps_stateInv {i : Instr} {s t : State} (hinv : StateInv s) (h : exec i s = .next t) : StateInv t := by
  cases i with
  | rxb b => exact execRxb_keeps_stateInv hinv h
  | abort => exact execAbort_keeps_stateInv hinv h
  | modek => exact execModek_keeps_stateInv hinv h
  | txnew c => exact execTxnew_keeps_stateInv hinv h
  | txapp b => exact execTxapp_keeps_stateInv hinv h
  | txenc => exact execTxenc_keeps_stateInv hinv h
  | push d u => exact execPush_keeps_stateInv hinv h
  | pop => exact execPop_keeps_stateInv hinv h

theorem step_keeps_stateInv {s t : State} (hinv : StateInv s) (h : step s = .next t) : StateInv t := by
  obtain ⟨-, hs⟩ | ⟨rest, -, hs⟩ | ⟨w, rest, i, -, -, hs⟩ | ⟨w, rest, r, -, -, hs⟩ := step_cases s
  · obtain rfl := Host.Outcome.next.inj (hs.symm.trans h)
    exact hinv
  · obtain rfl := Host.Outcome.next.inj (hs.symm.trans h)
    exact .applyReset _
  · exact exec_keeps_stateInv (hinv.withPending rest) (hs.symm.trans h)
  · rw [hs, refuseReserved_eq] at h
    obtain rfl := Host.Outcome.next.inj h
    exact (hinv.withPending rest).respond _

/-! ### No step stops where the invariants hold -/

/-- I5 with I4 keeps `RXB` away from the one stop of the model (R42; log entry 7). -/
theorem rxArm_answers {s : State} (b : Byte) (hinv : ReceiveInv s) : ∃ t, rxArm b s = .next t := by
  cases hst : s.rxState with
  | init => exact ⟨_, rxArm_init b hst⟩
  | sync => exact ⟨_, rxArm_sync b hst⟩
  | lenLow => exact ⟨_, rxArm_lenLow b hst⟩
  | lenHigh => exact ⟨_, rxArm_lenHigh b hst⟩
  | command => exact ⟨_, rxArm_command b hst⟩
  | data =>
    obtain ⟨-, hphase⟩ := hinv
    rw [hst] at hphase
    obtain ⟨hle, hcnt, -⟩ := hphase
    rw [rxArm_data b hst, rxDataArm, dif_pos (Nat.lt_of_lt_of_le hcnt hle)]
    exact ⟨_, rfl⟩
  | checksum => exact ⟨_, rxArm_checksum b hst⟩

theorem execRxb_answers {s : State} (b : Byte) (hinv : ReceiveInv s) : ∃ t, execRxb b s = .next t :=
  whenRunning_answers (rxArm_answers b hinv)

theorem execAbort_answers (s : State) : ∃ t, execAbort s = .next t := whenRunning_answers ⟨_, rfl⟩

theorem execModek_answers (s : State) : ∃ t, execModek s = .next t := whenRunning_answers ⟨_, rfl⟩

theorem execTxnew_answers (c : Byte) (s : State) : ∃ t, execTxnew c s = .next t := whenRunning_answers ⟨_, rfl⟩

theorem execTxenc_answers (s : State) : ∃ t, execTxenc s = .next t := whenRunning_answers ⟨_, rfl⟩

theorem execTxapp_answers (b : Byte) (s : State) : ∃ t, execTxapp b s = .next t := by
  refine whenRunning_answers ?_
  split
  · exact ⟨_, rfl⟩
  · exact ⟨_, rfl⟩

theorem execPush_answers (d : Direction) (u : Byte) (s : State) : ∃ t, execPush d u s = .next t := by
  refine whenRunning_answers ?_
  split
  · exact ⟨_, rfl⟩
  · split
    · exact ⟨_, rfl⟩
    · exact ⟨_, rfl⟩

theorem execPop_answers (s : State) : ∃ t, execPop s = .next t := by
  refine whenRunning_answers ?_
  split
  · exact ⟨_, rfl⟩
  · exact ⟨_, rfl⟩

theorem exec_answers {s : State} (i : Instr) (hinv : StateInv s) : ∃ t, exec i s = .next t := by
  cases i with
  | rxb b => exact execRxb_answers b hinv.receive
  | abort => exact execAbort_answers s
  | modek => exact execModek_answers s
  | txnew c => exact execTxnew_answers c s
  | txapp b => exact execTxapp_answers b s
  | txenc => exact execTxenc_answers s
  | push d u => exact execPush_answers d u s
  | pop => exact execPop_answers s

theorem step_answers {s : State} (hinv : StateInv s) : ∃ t, step s = .next t := by
  obtain ⟨-, hs⟩ | ⟨rest, -, hs⟩ | ⟨w, rest, i, -, -, hs⟩ | ⟨w, rest, r, -, -, hs⟩ := step_cases s
  · exact ⟨_, hs⟩
  · exact ⟨_, hs⟩
  · rw [hs]
    exact exec_answers i (hinv.withPending rest)
  · exact ⟨_, hs.trans (refuseReserved_eq _)⟩

/-- From a state with the invariants every sequence of inputs runs to its end, and the invariants hold there. -/
theorem feed_answers {s : State} (xs : List Input) (hinv : StateInv s) :
    ∃ t rs, feed xs s = some (t, rs) ∧ rs.length = xs.length ∧ StateInv t := by
  induction xs generalizing s with
  | nil => exact ⟨s, [], rfl, rfl, hinv⟩
  | cons x xs ih =>
    obtain ⟨u, hu⟩ := step_answers (hinv.present x)
    obtain ⟨t, rs, hfeed, hlen, ht⟩ := ih (step_keeps_stateInv (hinv.present x) hu)
    refine ⟨t, u.resp :: rs, ?_, congrArg (· + 1) hlen, ht⟩
    rw [feed_cons_next xs hu, hfeed]
    rfl

end Sys2Proof.Machine
end

section
/-! SUPPORT. Which operations write `rx_state` (R13, R91). -/

namespace Sys2Proof.Machine

/-- No operation but `RXB` and `ABORT` writes `rx_state`. -/
theorem exec_keeps_rxState {i : Instr} {s t : State} (h : exec i s = .next t) (hrxb : ∀ b, i ≠ .rxb b)
    (habort : i ≠ .abort) : t.rxState = s.rxState := by
  cases i with
  | rxb b => exact absurd rfl (hrxb b)
  | abort => exact absurd rfl habort
  | modek => obtain ⟨-, rfl⟩ | ⟨-, rfl⟩ := execModek_next h <;> rfl
  | txnew c => obtain ⟨-, rfl⟩ | ⟨-, rfl⟩ := execTxnew_next h <;> rfl
  | txapp b => obtain ⟨-, rfl⟩ | ⟨-, -, rfl⟩ | ⟨-, -, rfl⟩ := execTxapp_next h <;> rfl
  | txenc => obtain ⟨-, rfl⟩ | ⟨-, rfl⟩ := execTxenc_next h <;> rfl
  | push d u => obtain ⟨-, rfl⟩ | ⟨-, -, rfl⟩ | ⟨-, -, -, rfl⟩ := execPush_next h <;> rfl
  | pop => obtain ⟨-, rfl⟩ | ⟨-, -, rfl⟩ | ⟨-, -, rfl⟩ := execPop_next h <;> rfl

end Sys2Proof.Machine
end

section
/-! The statements of 10_state.md. -/

namespace Sys2Proof.Proofs

open Sys2Proof.Machine

/-- Settles O56: every operation keeps the three groups of invariants, and the other steps write none of them but by reset. -/
theorem stepKeepsTheInvariants : Obligations.StepKeepsTheInvariants :=
  fun _ _ => step_keeps_stateInv

/-- Settles O55, from the three groups of invariants at reset. -/
theorem resetMeetsTheInvariants : Obligations.ResetMeetsTheInvariants :=
  StateInv.reset

/-- Settles O57, by induction on the inputs: a step from a state with the invariants answers, and keeps them. -/
theorem reachableStatesMeetTheInvariants : Obligations.ReachableStatesMeetTheInvariants :=
  fun xs => feed_answers xs StateInv.reset

/-- Settles O25, by the four things a step can be. -/
theorem rxStateWriters : Obligations.RxStateWriters := by
  intro s t h hne
  obtain ⟨-, hs⟩ | ⟨rest, hp, -⟩ | ⟨w, rest, i, hp, hd, hs⟩ | ⟨w, rest, r, -, -, hs⟩ := step_cases s
  · obtain rfl := Host.Outcome.next.inj (hs.symm.trans h)
    exact absurd rfl hne
  · exact .inr ⟨rest, hp⟩
  · refine .inl ⟨w, rest, hp, ?_⟩
    by_contra hother
    simp only [hd, Except.ok.injEq, not_or, not_exists] at hother
    obtain ⟨hrxb, habort⟩ := hother
    have hkeep := exec_keeps_rxState (hs.symm.trans h) hrxb habort
    exact hne hkeep
  · rw [hs, refuseReserved_eq] at h
    obtain rfl := Host.Outcome.next.inj h
    exact absurd rfl hne

/-- Settles O47: a push that stores finds the queue not full, and `wr` is then another slot. -/
theorem sacrificedSlotIsNotWritten : Obligations.SacrificedSlotIsNotWritten := by
  intro d u s t h
  obtain ⟨-, rfl⟩ | ⟨-, -, rfl⟩ | ⟨-, -, hroom, rfl⟩ := execPush_next h
  · exact ⟨rfl, rfl⟩
  · exact ⟨rfl, rfl⟩
  · exact ⟨rfl, State.slotEvent_of_write rfl rfl (State.sacrificed_ne_wr hroom)⟩

/-- Settles O6, from the fields of an event's bits and the two inverse directions. -/
theorem keyEventLayout : Obligations.KeyEventLayout := by
  refine ⟨fun e => ⟨?_, ?_, e.toBits_low, e.ofBits_toBits⟩, KeyEvent.toBits_ofBits⟩
  · rw [e.toBits_bit8, Direction.toBit_eq_zero_iff]
  · rw [e.toBits_bit8, Direction.toBit_eq_one_iff]

/-- Settles O45, by the arithmetic of the indices modulo 10. -/
theorem queueStatusOutputs : Obligations.QueueStatusOutputs :=
  fun s => ⟨s.qCount_le, s.qCount_eq.symm, s.qEmpty_iff_qCount, s.qFull_iff_qCount, s.held_length⟩

end Sys2Proof.Proofs
end

section
/-! SUPPORT. One step on a presented word, the one stop of the receive state machine, the frame read-out, what operations other than
`RXB` leave unchanged, and operations that may be repeated (20_memory.md). -/

namespace Sys2Proof.Machine

/-- A presented word that denotes an operation is carried out on the state without it (R51, R71). -/
theorem step_of_decode_ok {s : State} {w : Word} {rest : List Input} {i : Instr} (hp : s.pending = .word w :: rest)
    (hd : decode w = .ok i) : step s = exec i { s with pending := rest } := by
  rw [step, takeInput_cons hp]
  simp only [hd]

/-- `RXP` has no element 128, so the `Data` arm cannot store there (R40; log entry 7). -/
theorem rxDataArm_past_buffer {s : State} (b : Byte) (h : s.rxCnt.val = 128) :
    rxDataArm b s = .fault .indexOutOfRange := by
  have hfull : ¬ s.rxCnt.val < Config.payloadCap := by rw [h]; exact lt_irrefl _
  rw [rxDataArm, dif_neg hfull]

/-! ### The frame read-out (R43) -/

theorem State.rxPayload_getElem? (s : State) {j : Nat} (h : j < s.rxLen.toNat) :
    s.rxPayload[j]? = some (s.rxpByte j) := by
  simp [State.rxPayload, h]

theorem State.frameReadOut_of_le {s : State} (h : s.rxLen.toNat ≤ 128) :
    s.frameReadOut = some (s.rxCmd, s.rxLen, s.rxPayload, s.rxCsum) := by
  have hfits : ¬ oversizeLength s.rxLen = true := by rw [oversizeLength_iff]; exact not_lt.mpr h
  rw [State.frameReadOut, if_neg hfits]

theorem State.frameReadOut_of_oversize {s : State} (h : 128 < s.rxLen.toNat) : s.frameReadOut = none := by
  rw [State.frameReadOut, if_pos ((oversizeLength_iff s.rxLen).mpr h)]

/-- No operation but `RXB` writes a frame register, `rx_cnt` or `RXP` (R194), and none touches the inputs still presented or the
count of resets. -/
theorem exec_frame_of_not_rxb {i : Instr} {s t : State} (h : exec i s = .next t) (hrxb : ∀ b, i ≠ .rxb b) :
    t = { s with
      rxState := t.rxState, txCmd := t.txCmd, txLen := t.txLen, txCsum := t.txCsum, txp := t.txp
      wr := t.wr, rd := t.rd, slot := t.slot, mode := t.mode, fault := t.fault, resp := t.resp } := by
  cases i with
  | rxb b => exact absurd rfl (hrxb b)
  | abort => obtain ⟨-, rfl⟩ | ⟨-, rfl⟩ := execAbort_next h <;> rfl
  | modek => obtain ⟨-, rfl⟩ | ⟨-, rfl⟩ := execModek_next h <;> rfl
  | txnew c => obtain ⟨-, rfl⟩ | ⟨-, rfl⟩ := execTxnew_next h <;> rfl
  | txapp b => obtain ⟨-, rfl⟩ | ⟨-, -, rfl⟩ | ⟨-, -, rfl⟩ := execTxapp_next h <;> rfl
  | txenc => obtain ⟨-, rfl⟩ | ⟨-, rfl⟩ := execTxenc_next h <;> rfl
  | push d u => obtain ⟨-, rfl⟩ | ⟨-, -, rfl⟩ | ⟨-, -, -, rfl⟩ := execPush_next h <;> rfl
  | pop => obtain ⟨-, rfl⟩ | ⟨-, -, rfl⟩ | ⟨-, -, rfl⟩ := execPop_next h <;> rfl

/-! ### Operations that may be repeated (R49) -/

/-- A guarded operation that leaves `fault` may be repeated if its update is idempotent; the refusal while faulted always
repeats. -/
theorem whenRunning_repeats {s t : State} {update : State → State}
    (h : whenRunning s (fun s => .next (update s)) = .next t) (hfault : (update s).fault = s.fault)
    (hidem : update (update s) = update s) : whenRunning t (fun s => .next (update s)) = .next t := by
  obtain ⟨hf, rfl⟩ | ⟨hf, hs⟩ := whenRunning_next h
  · exact whenRunning_faulted _ _ hf
  · obtain rfl := Host.Outcome.next.inj hs
    rw [whenRunning_running _ _ (hfault.trans hf), hidem]

theorem execAbort_repeats {s t : State} (h : execAbort s = .next t) : execAbort t = .next t :=
  whenRunning_repeats h rfl rfl

theorem execModek_repeats {s t : State} (h : execModek s = .next t) : execModek t = .next t :=
  whenRunning_repeats h rfl rfl

theorem execTxnew_repeats {c : Byte} {s t : State} (h : execTxnew c s = .next t) : execTxnew c t = .next t :=
  whenRunning_repeats h rfl rfl

/-- `TXENC` writes `tx_csum`, which neither the wire buffer nor the checksum is computed from (R114, R115). -/
theorem execTxenc_repeats {s t : State} (h : execTxenc s = .next t) : execTxenc t = .next t :=
  whenRunning_repeats h rfl rfl

end Sys2Proof.Machine
end

section
/-! The statements of 20_memory.md. -/

namespace Sys2Proof.Proofs

open Sys2Proof.Machine

/-- Settles O8: the word is the next input taken, and it decodes. -/
theorem stepRunsPresentedOperation : Obligations.StepRunsPresentedOperation :=
  fun _ _ _ _ => step_of_decode_ok

/-- Settles O23: the block is not faulted, so the `Data` arm has the byte, and its bound fails. -/
theorem rxbStopsPastTheBuffer : Obligations.RxbStopsPastTheBuffer := by
  intro b s hf hst hcnt
  calc exec (.rxb b) s = rxArm b s := whenRunning_running s (rxArm b) hf
    _ = rxDataArm b s := rxArm_data b hst
    _ = .fault .indexOutOfRange := rxDataArm_past_buffer b hcnt

/-- Settles O58: I5 with I4 keeps `RXB` away from the one stop, and no other operation has one. -/
theorem everyOperationCompletes : Obligations.EveryOperationCompletes :=
  fun i _ => exec_answers i

/-- Settles O54, operation by operation: no value that one of them writes depends on a register it writes. -/
theorem repeatableOperations : Obligations.RepeatableOperations := by
  rintro i s t (rfl | rfl | ⟨c, rfl⟩ | rfl) h
  · exact execAbort_repeats h
  · exact execModek_repeats h
  · exact execTxnew_repeats h
  · exact execTxenc_repeats h

/-- Settles O27: the read-out is the tuple of R43, and it depends only on what no operation but `RXB` writes. -/
theorem receivedFrameSurvivesOtherOperations : Obligations.ReceivedFrameSurvivesOtherOperations := by
  refine ⟨fun s => ⟨fun hle => ?_, State.frameReadOut_of_oversize⟩, fun i s t h hrxb => ?_⟩
  · exact ⟨s.rxPayload, State.frameReadOut_of_le hle, s.rxPayload_length, fun _ hj => s.rxPayload_getElem? hj⟩
  · have hframe := exec_frame_of_not_rxb h hrxb
    exact ⟨(congrArg State.rxLen hframe :), (congrArg State.rxCmd hframe :), (congrArg State.rxCsum hframe :),
      (congrArg State.frameReadOut hframe :), (congrArg State.rxCnt hframe :),
      fun j => (congrArg (State.rxpByte · j) hframe :), exec_keeps_rxState h hrxb⟩

end Sys2Proof.Proofs
end

section
/-! SUPPORT. The decoder and the encoder as inverses, the masks of R70 on the fields of a word, and the reserved words (R72). -/

namespace Sys2Proof

/-! ### Decode of encode -/

theorem decode_encode (i : Instr) : decode (encode i) = .ok i := by
  simp only [decode, encode, OpFields.ofWord_toWord]
  cases i with
  | push d u => exact congrArg (fun d => Except.ok (Instr.push d u)) d.ofBit_toBit
  | rxb _ | abort | modek | txnew _ | txapp _ | txenc | pop => rfl

/-! ### Encode of decode -/

/-- A word decoded as an operation with a byte argument has that operation's fields, where the code is the operation's. -/
theorem encodeFields_of_decodeWithByte {f : OpFields} {mk : Byte → Instr} {i : Instr}
    (hmk : ∀ b, encodeFields (mk b) = ⟨f.op, f.zero, 0, b⟩) (h : decodeWithByte f mk = .ok i) : encodeFields i = f := by
  unfold decodeWithByte at h
  split at h
  next harg8 =>
    obtain rfl := Except.ok.inj h
    rw [hmk, ← harg8]
  next => cases h

/-- The same for an operation without argument. -/
theorem encodeFields_of_decodeBare {f : OpFields} {i j : Instr} (hj : encodeFields j = ⟨f.op, f.zero, 0, 0⟩)
    (h : decodeBare f j = .ok i) : encodeFields i = f := by
  unfold decodeBare at h
  split at h
  next harg8 =>
    split at h
    next harg =>
      obtain rfl := Except.ok.inj h
      rw [hj, ← harg8, ← harg]
    next => cases h
  next => cases h

theorem encodeFields_of_decodeOp {f : OpFields} {i : Instr} (hzero : f.zero = 0) (h : decodeOp f = .ok i) :
    encodeFields i = f := by
  unfold decodeOp at h
  split_ifs at h with hrxb habort hmodek htxnew htxapp htxenc hpush hpop
  · exact encodeFields_of_decodeWithByte (fun _ => by rw [hrxb, hzero]; rfl) h
  · exact encodeFields_of_decodeBare (by rw [habort, hzero]; rfl) h
  · exact encodeFields_of_decodeBare (by rw [hmodek, hzero]; rfl) h
  · exact encodeFields_of_decodeWithByte (fun _ => by rw [htxnew, hzero]; rfl) h
  · exact encodeFields_of_decodeWithByte (fun _ => by rw [htxapp, hzero]; rfl) h
  · exact encodeFields_of_decodeBare (by rw [htxenc, hzero]; rfl) h
  · obtain rfl := Except.ok.inj h
    rw [encodeFields, Direction.toBit_ofBit, ← hpush, ← hzero]
  · exact encodeFields_of_decodeBare (by rw [hpop, hzero]; rfl) h

theorem encode_of_decode {w : Word} {i : Instr} (h : decode w = .ok i) : encode i = w := by
  unfold decode at h
  split at h
  next hzero => rw [encode, encodeFields_of_decodeOp hzero h, OpFields.toWord_ofWord]
  next => cases h

theorem OpFields.ofWord_eq_iff (w : Word) (f : OpFields) : OpFields.ofWord w = f ↔ w = f.toWord :=
  ⟨fun h => by rw [← h, OpFields.toWord_ofWord], fun h => by rw [h, OpFields.ofWord_toWord]⟩

/-- A word denotes an operation exactly when its fields are the operation's. -/
theorem decode_eq_ok_iff (w : Word) (i : Instr) : decode w = .ok i ↔ OpFields.ofWord w = encodeFields i := by
  rw [OpFields.ofWord_eq_iff]
  exact ⟨fun h => (encode_of_decode h).symm, fun h => h ▸ decode_encode i⟩

/-! ### The masks of the operation map (R70) on the fields of a word (R68) -/

theorem OpFields.toWord_inj {f g : OpFields} : f.toWord = g.toWord ↔ f = g := by
  rw [← OpFields.ofWord_eq_iff, OpFields.ofWord_toWord]

theorem OpFields.toWord_and_toWord (f g : OpFields) :
    f.toWord &&& g.toWord = OpFields.toWord ⟨f.op &&& g.op, f.zero &&& g.zero, f.arg8 &&& g.arg8, f.arg &&& g.arg⟩ := by
  change (f.op ++ f.zero ++ f.arg8 ++ f.arg) &&& (g.op ++ g.zero ++ g.arg8 ++ g.arg) =
    (f.op &&& g.op) ++ (f.zero &&& g.zero) ++ (f.arg8 &&& g.arg8) ++ (f.arg &&& g.arg)
  rw [BitVec.and_append, BitVec.and_append, BitVec.and_append]

/-- A word matches under a mask exactly when each of its fields does. -/
theorem word_and_eq_iff (w : Word) (mask pattern : OpFields) :
    w &&& mask.toWord = pattern.toWord ↔
      (OpFields.ofWord w).op &&& mask.op = pattern.op ∧ (OpFields.ofWord w).zero &&& mask.zero = pattern.zero ∧
      (OpFields.ofWord w).arg8 &&& mask.arg8 = pattern.arg8 ∧ (OpFields.ofWord w).arg &&& mask.arg = pattern.arg := by
  conv_lhs => rw [← OpFields.toWord_ofWord w, OpFields.toWord_and_toWord, OpFields.toWord_inj]
  rw [← OpFields.mk.injEq]

theorem and_0xFF00_eq_iff (w : Word) (op : BitVec 4) :
    w &&& 0xFF00 = OpFields.toWord ⟨op, 0, 0, 0⟩ ↔
      (OpFields.ofWord w).op = op ∧ (OpFields.ofWord w).zero = 0 ∧ (OpFields.ofWord w).arg8 = 0 := by
  have hmask : (0xFF00 : Word) = OpFields.toWord ⟨.allOnes 4, .allOnes 3, .allOnes 1, 0⟩ := by decide
  rw [hmask, word_and_eq_iff]
  simp only [BitVec.and_allOnes, BitVec.and_zero, and_true, BitVec.ofNat_eq_ofNat]

theorem and_0xFE00_eq_iff (w : Word) (op : BitVec 4) :
    w &&& 0xFE00 = OpFields.toWord ⟨op, 0, 0, 0⟩ ↔ (OpFields.ofWord w).op = op ∧ (OpFields.ofWord w).zero = 0 := by
  have hmask : (0xFE00 : Word) = OpFields.toWord ⟨.allOnes 4, .allOnes 3, 0, 0⟩ := by decide
  rw [hmask, word_and_eq_iff]
  simp only [BitVec.and_allOnes, BitVec.and_zero, and_true, BitVec.ofNat_eq_ofNat]

theorem and_0xFFFF_eq_iff (w : Word) (f : OpFields) : w &&& 0xFFFF = f.toWord ↔ OpFields.ofWord w = f := by
  rw [show (0xFFFF : Word) = .allOnes 16 by decide, BitVec.and_allOnes, OpFields.ofWord_eq_iff]

/-! ### The rows of the operation map, by the shape of their operands (R70) -/

/-- A row with a byte argument has the mask `0xFF00`. -/
theorem ofWord_eq_byteRow_iff (w : Word) (op : BitVec 4) (b : Byte) :
    OpFields.ofWord w = ⟨op, 0, 0, b⟩ ↔ w &&& 0xFF00 = OpFields.toWord ⟨op, 0, 0, 0⟩ ∧ b = w.extractLsb' 0 8 := by
  rw [and_0xFF00_eq_iff, OpFields.ofWord, OpFields.mk.injEq, eq_comm (a := b)]
  simp only [and_assoc]

theorem KeyEvent.toBits_eq_append_iff (e : KeyEvent) (b : BitVec 1) (u : Byte) :
    e.toBits = b ++ u ↔ e.direction.toBit = b ∧ e.usage = u := by
  refine ⟨fun h => ⟨?_, ?_⟩, fun ⟨hb, hu⟩ => by rw [KeyEvent.toBits, hb, hu]⟩
  · rw [← e.toBits_bit8, h, BitVec.extractLsb'_append_eq_left]
  · rw [← e.toBits_low, h, BitVec.extractLsb'_append_eq_right]

/-- The row of `PUSH` has the mask `0xFE00`: bits 8:0 are the event (R69). -/
theorem ofWord_eq_eventRow_iff (w : Word) (op : BitVec 4) (d : Direction) (u : Byte) :
    OpFields.ofWord w = ⟨op, 0, d.toBit, u⟩ ↔
      w &&& 0xFE00 = OpFields.toWord ⟨op, 0, 0, 0⟩ ∧ KeyEvent.toBits ⟨d, u⟩ = w.extractLsb' 0 9 := by
  have hevent : w.extractLsb' 0 9 = w.extractLsb' 8 1 ++ w.extractLsb' 0 8 :=
    (BitVec.extractLsb'_append_extractLsb'_eq_extractLsb' (start₁ := 0) (len₁ := 8) rfl).symm
  rw [and_0xFE00_eq_iff, hevent, KeyEvent.toBits_eq_append_iff, OpFields.ofWord, OpFields.mk.injEq,
    eq_comm (a := d.toBit), eq_comm (a := u)]
  simp only [and_assoc]

/-! ### Reserved words (R72) -/

theorem OpFields.arg8_ne_zero_iff (f : OpFields) : f.arg8 ≠ 0 ↔ f.arg8 = 1 := by
  generalize f.arg8 = b
  revert b; decide

theorem decodeWithByte_error_iff (f : OpFields) (mk : Byte → Instr) :
    (∃ r, decodeWithByte f mk = .error r) ↔ f.arg8 = 1 := by
  rw [← OpFields.arg8_ne_zero_iff, decodeWithByte]
  split_ifs with harg8
  · exact iff_of_false nofun (not_not.mpr harg8)
  · exact iff_of_true ⟨_, rfl⟩ harg8

theorem decodeBare_error_iff (f : OpFields) (i : Instr) :
    (∃ r, decodeBare f i = .error r) ↔ f.arg8 = 1 ∨ f.arg ≠ 0 := by
  rw [← OpFields.arg8_ne_zero_iff, decodeBare]
  split_ifs with harg8 harg
  · exact iff_of_false nofun (not_or.mpr ⟨not_not.mpr harg8, not_not.mpr harg⟩)
  · exact iff_of_true ⟨_, rfl⟩ (.inr harg)
  · exact iff_of_true ⟨_, rfl⟩ (.inl harg8)

/-- An `op` that is none of the eight codes is one of the other eight. -/
theorem unknownOp_mem {op : BitVec 4} (hcodes : op ∉ ([1, 2, 3, 4, 5, 6, 8, 9] : List (BitVec 4))) :
    op.toNat ∈ [0x0, 0x7, 0xA, 0xB, 0xC, 0xD, 0xE, 0xF] := by
  revert op; decide

/-- With bits 11:9 clear, the reserved words are those of the other three clauses of R72. -/
theorem decodeOp_error_iff (f : OpFields) :
    (∃ r, decodeOp f = .error r) ↔ f.op.toNat ∈ [0x0, 0x7, 0xA, 0xB, 0xC, 0xD, 0xE, 0xF] ∨
      (f.arg8 = 1 ∧ f.op ≠ 0x8) ∨ (f.arg ≠ 0 ∧ f.op.toNat ∈ [0x2, 0x3, 0x6, 0x9]) := by
  unfold decodeOp
  split_ifs with hrxb habort hmodek htxnew htxapp htxenc hpush hpop
  · simp [decodeWithByte_error_iff, hrxb]
  · simp [decodeBare_error_iff, habort]
  · simp [decodeBare_error_iff, hmodek]
  · simp [decodeWithByte_error_iff, htxnew]
  · simp [decodeWithByte_error_iff, htxapp]
  · simp [decodeBare_error_iff, htxenc]
  · simp [hpush]
  · simp [decodeBare_error_iff, hpop]
  · have hunknown := unknownOp_mem (op := f.op)
      (by simp only [List.mem_cons, List.not_mem_nil, or_false, not_or]
          exact ⟨hrxb, habort, hmodek, htxnew, htxapp, htxenc, hpush, hpop⟩)
    exact ⟨fun _ => .inl hunknown, fun _ => ⟨_, rfl⟩⟩

theorem decode_error_iff (w : Word) :
    (∃ r, decode w = .error r) ↔
      (OpFields.ofWord w).zero ≠ 0 ∨ ∃ r, decodeOp (OpFields.ofWord w) = .error r := by
  unfold decode
  split_ifs with hzero
  · exact (or_iff_right (not_not.mpr hzero)).symm
  · exact iff_of_true ⟨_, rfl⟩ (.inl hzero)

end Sys2Proof
end

section
/-! SUPPORT. The checksum arithmetic (R64, R117) and the fields of the response word (R76). -/

namespace Sys2Proof.Machine

/-! ### The checksum generator -/

theorem sum8_eq_sum (bs : List Byte) : sum8 bs = bs.sum := by
  induction bs with
  | nil => rfl
  | cons b bs ih => rw [sum8, ih, List.sum_cons, add8]

theorem sum8_toNat (bs : List Byte) : (sum8 bs).toNat = (bs.map BitVec.toNat).sum % 256 := by
  induction bs with
  | nil => rfl
  | cons b bs ih =>
    rw [sum8, add8, BitVec.toNat_add, ih, List.map_cons, List.sum_cons]
    exact Nat.add_mod_mod _ _ _

theorem csum8_toNat (bs : List Byte) : (csum8 bs).toNat = (256 - (bs.map BitVec.toNat).sum % 256) % 256 := by
  rw [csum8, neg8, BitVec.toNat_neg, sum8_toNat]

theorem csum8_eq_not_add_one (bs : List Byte) : csum8 bs = ~~~(sum8 bs) + 1 :=
  BitVec.neg_eq_not_add (sum8 bs)

theorem add8_sum8_csum8 (bs : List Byte) : add8 (sum8 bs) (csum8 bs) = 0 :=
  BitVec.add_right_neg (sum8 bs)

theorem sum8_perm {as bs : List Byte} (h : as.Perm bs) : sum8 as = sum8 bs := by
  rw [sum8_eq_sum, sum8_eq_sum, h.sum_eq]

theorem csum8_perm {as bs : List Byte} (h : as.Perm bs) : csum8 as = csum8 bs :=
  congrArg neg8 (sum8_perm h)

theorem sum8_append (as bs : List Byte) : sum8 (as ++ bs) = add8 (sum8 as) (sum8 bs) := by
  rw [sum8_eq_sum, sum8_eq_sum, sum8_eq_sum, List.sum_append, add8]

/-- The running sum of the receiver: one byte more (R92 to R95). -/
theorem sum8_concat (bs : List Byte) (b : Byte) : sum8 (bs ++ [b]) = add8 (sum8 bs) b := by
  rw [sum8_append, sum8_eq_sum [b], List.sum_singleton]

/-! ### The response word -/

theorem Response.word_status (r : Response) : r.word.extractLsb' 14 2 = r.status.toBits := by
  change BitVec.extractLsb' 14 2 (_ ++ _ ++ _ ++ _ ++ _ ++ r.event.toBits) = _
  rw [BitVec.extractLsb'_append_eq_of_le (by decide), BitVec.extractLsb'_append_eq_of_le (by decide),
    BitVec.extractLsb'_append_eq_of_le (by decide), BitVec.extractLsb'_append_eq_of_le (by decide)]
  exact BitVec.extractLsb'_append_eq_left

theorem Response.word_result (r : Response) : r.word.extractLsb' 12 2 = r.result.toBits := by
  change BitVec.extractLsb' 12 2 (_ ++ _ ++ _ ++ _ ++ _ ++ r.event.toBits) = _
  rw [BitVec.extractLsb'_append_eq_of_le (by decide), BitVec.extractLsb'_append_eq_of_le (by decide),
    BitVec.extractLsb'_append_eq_of_le (by decide), BitVec.extractLsb'_append_eq_of_le (by decide)]
  exact BitVec.extractLsb'_append_eq_right

theorem Response.word_oversize (r : Response) : r.word.extractLsb' 11 1 = BitVec.ofBool r.oversize := by
  change BitVec.extractLsb' 11 1 (_ ++ _ ++ _ ++ _ ++ _ ++ r.event.toBits) = _
  rw [BitVec.extractLsb'_append_eq_of_le (by decide), BitVec.extractLsb'_append_eq_of_le (by decide),
    BitVec.extractLsb'_append_eq_of_le (by decide)]
  exact BitVec.extractLsb'_append_eq_right

theorem Response.word_accepted (r : Response) : r.word.extractLsb' 10 1 = BitVec.ofBool r.accepted := by
  change BitVec.extractLsb' 10 1 (_ ++ _ ++ _ ++ _ ++ _ ++ r.event.toBits) = _
  rw [BitVec.extractLsb'_append_eq_of_le (by decide), BitVec.extractLsb'_append_eq_of_le (by decide)]
  exact BitVec.extractLsb'_append_eq_right

theorem Response.word_empty (r : Response) : r.word.extractLsb' 9 1 = BitVec.ofBool r.empty := by
  change BitVec.extractLsb' 9 1 (_ ++ _ ++ _ ++ _ ++ _ ++ r.event.toBits) = _
  rw [BitVec.extractLsb'_append_eq_of_le (by decide)]
  exact BitVec.extractLsb'_append_eq_right

theorem Response.word_event (r : Response) : r.word.extractLsb' 0 9 = r.event.toBits :=
  BitVec.extractLsb'_append_eq_right

/-- Only the first six fields are in the word (R76). -/
theorem Response.word_withWire (r : Response) (wire : List Byte) : { r with wire := wire }.word = r.word := rfl

/-! ### What an operation can answer with (R76) -/

/-- The responses an operation can have while `fault = 0`: each field beside the status is in the answers of its own operations
only. -/
def Answers : Instr → Response → Prop
  | .rxb _, r => ∃ result oversize, r = { Response.blank with result := result, oversize := oversize }
  | .txapp _, r => r = Response.blank ∨ r = Response.ofStatus .capfault
  | .txenc, r => ∃ wire, r = { Response.blank with wire := wire }
  | .push _ _, r => ∃ accepted, r = { Response.blank with accepted := accepted }
  | .pop, r => r = { Response.blank with empty := true } ∨ ∃ event, r = { Response.blank with event := event }
  | .abort, r | .modek, r | .txnew _, r => r = Response.blank

theorem rxArm_resp {b : Byte} {s t : State} (h : rxArm b s = .next t) :
    ∃ result oversize, t.resp = some { Response.blank with result := result, oversize := oversize } := by
  cases hst : s.rxState with
  | init => rw [rxArm_init b hst] at h; cases h; exact ⟨_, _, rfl⟩
  | sync => rw [rxArm_sync b hst] at h; cases h; exact ⟨_, _, rfl⟩
  | lenLow => rw [rxArm_lenLow b hst] at h; cases h; exact ⟨_, _, rfl⟩
  | lenHigh => rw [rxArm_lenHigh b hst] at h; cases h; exact ⟨_, _, rfl⟩
  | command => rw [rxArm_command b hst] at h; cases h; exact ⟨_, _, rfl⟩
  | data =>
    rw [rxArm_data b hst] at h
    obtain ⟨_, rfl⟩ := rxDataArm_next h
    exact ⟨_, _, rfl⟩
  | checksum => rw [rxArm_checksum b hst] at h; cases h; exact ⟨_, _, rfl⟩

/-- What `RXB` can answer: the refusal while faulted, or what the arm of the state answers (R85). -/
theorem execRxb_next {b : Byte} {s t : State} (h : execRxb b s = .next t) :
    (s.fault = true ∧ t = s.respond (Response.ofStatus .faulted)) ∨ (s.fault = false ∧ rxArm b s = .next t) :=
  whenRunning_next h

/-- Every operation that answers holds a response: the refusal while faulted (R167), or one of its own. -/
theorem exec_resp {i : Instr} {s t : State} (h : exec i s = .next t) :
    (s.fault = true ∧ t.resp = some (Response.ofStatus .faulted)) ∨
    (s.fault = false ∧ ∃ r, t.resp = some r ∧ Answers i r) := by
  cases i with
  | rxb b =>
    obtain ⟨hf, rfl⟩ | ⟨hf, h⟩ := execRxb_next h
    · exact .inl ⟨hf, rfl⟩
    · obtain ⟨result, oversize, ht⟩ := rxArm_resp h
      exact .inr ⟨hf, _, ht, result, oversize, rfl⟩
  | abort =>
    obtain ⟨hf, rfl⟩ | ⟨hf, rfl⟩ := execAbort_next h
    · exact .inl ⟨hf, rfl⟩
    · exact .inr ⟨hf, _, rfl, rfl⟩
  | modek =>
    obtain ⟨hf, rfl⟩ | ⟨hf, rfl⟩ := execModek_next h
    · exact .inl ⟨hf, rfl⟩
    · exact .inr ⟨hf, _, rfl, rfl⟩
  | txnew c =>
    obtain ⟨hf, rfl⟩ | ⟨hf, rfl⟩ := execTxnew_next h
    · exact .inl ⟨hf, rfl⟩
    · exact .inr ⟨hf, _, rfl, rfl⟩
  | txapp b =>
    obtain ⟨hf, rfl⟩ | ⟨hf, -, rfl⟩ | ⟨hf, -, rfl⟩ := execTxapp_next h
    · exact .inl ⟨hf, rfl⟩
    · exact .inr ⟨hf, _, rfl, .inl rfl⟩
    · exact .inr ⟨hf, _, rfl, .inr rfl⟩
  | txenc =>
    obtain ⟨hf, rfl⟩ | ⟨hf, rfl⟩ := execTxenc_next h
    · exact .inl ⟨hf, rfl⟩
    · exact .inr ⟨hf, _, rfl, _, rfl⟩
  | push d u =>
    obtain ⟨hf, rfl⟩ | ⟨hf, -, rfl⟩ | ⟨hf, -, -, rfl⟩ := execPush_next h
    · exact .inl ⟨hf, rfl⟩
    · exact .inr ⟨hf, _, rfl, false, rfl⟩
    · exact .inr ⟨hf, _, rfl, true, rfl⟩
  | pop =>
    obtain ⟨hf, rfl⟩ | ⟨hf, -, rfl⟩ | ⟨hf, -, rfl⟩ := execPop_next h
    · exact .inl ⟨hf, rfl⟩
    · exact .inr ⟨hf, _, rfl, .inl rfl⟩
    · exact .inr ⟨hf, _, rfl, .inr ⟨_, rfl⟩⟩

end Sys2Proof.Machine
end

section
/-! SUPPORT. Presented operations, sequences whose every response is blank, and the transmit operations in sequence (R75). -/

namespace Sys2Proof.Machine

/-- An operation presented by its word is carried out by the next step (R51, R71). -/
theorem step_present_opInput (i : Instr) (s : State) : step (present (opInput i) s) = exec i s :=
  step_of_decode_ok rfl (decode_encode i)

/-- Every input of the sequence is carried out and answered with the blank response. -/
def FeedsBlank (xs : List Input) (s t : State) : Prop :=
  feed xs s = some (t, List.replicate xs.length (some Response.blank))

theorem FeedsBlank.nil (s : State) : FeedsBlank [] s s := rfl

theorem FeedsBlank.cons {i : Instr} {xs : List Input} {s t u : State} (hexec : exec i s = .next t)
    (hresp : t.resp = some Response.blank) (h : FeedsBlank xs t u) : FeedsBlank (opInput i :: xs) s u := by
  rw [FeedsBlank, feed_cons_next xs ((step_present_opInput i s).trans hexec), h, hresp]
  rfl

theorem FeedsBlank.append {xs ys : List Input} {s t u : State} (hxs : FeedsBlank xs s t) (hys : FeedsBlank ys t u) :
    FeedsBlank (xs ++ ys) s u := by
  rw [FeedsBlank, feed_append ys hxs, hys, List.length_append, List.replicate_add]
  rfl

/-- One operation more, whatever it answers. -/
theorem FeedsBlank.feed_concat {xs : List Input} {i : Instr} {s t u : State} (h : FeedsBlank xs s t)
    (hexec : exec i t = .next u) :
    feed (xs ++ [opInput i]) s = some (u, List.replicate xs.length (some Response.blank) ++ [u.resp]) := by
  rw [feed_append _ h, feed_cons_next [] ((step_present_opInput i t).trans hexec)]
  rfl

/-! ### The transmit operations while running -/

theorem execTxnew_running (c : Byte) {s : State} (hf : s.fault = false) :
    execTxnew c s = .next ({ s with txCmd := c, txLen := 0 }.respond Response.blank) :=
  whenRunning_running s _ hf

theorem execTxapp_running (b : Byte) {s : State} (hf : s.fault = false) (room : s.txLen.val < 128) :
    execTxapp b s = .next ({ s with
      txp := Memory.write s.txp s.txLen.val b
      txLen := ⟨s.txLen.val + 1, Nat.succ_lt_succ room⟩ }.respond Response.blank) :=
  (whenRunning_running s _ hf).trans (dif_pos room)

theorem execTxenc_running {s : State} (hf : s.fault = false) :
    execTxenc s = .next ({ s with txCsum := csum8 (summedBytes s.txCmd s.txPayload) }.respond
      { Response.blank with wire := wireBytes s.txCmd s.txPayload (csum8 (summedBytes s.txCmd s.txPayload)) }) :=
  whenRunning_running s _ hf

/-- An array read in order up to its element `n`, which a write has just set. -/
theorem map_range_succ_of_write {before after : Nat → Byte} {n : Nat} {b : Byte}
    (h : ∀ i, after i = if i = n then b else before i) :
    (List.range (n + 1)).map after = (List.range n).map before ++ [b] := by
  have hkeep : (List.range n).map after = (List.range n).map before :=
    List.map_congr_left fun i hi => by rw [h, if_neg (List.mem_range.mp hi).ne]
  rw [List.range_succ, List.map_append, hkeep, List.map_singleton, h, if_pos rfl]

theorem State.txpByte_of_write {s t : State} {a : Nat} {b : Byte} (htxp : t.txp = Memory.write s.txp a b)
    (hresets : t.resets = s.resets) (i : Nat) : t.txpByte i = if i = a then b else s.txpByte i := by
  rw [State.txpByte, State.txpByte, htxp, hresets, Memory.read_write]
  split_ifs <;> rfl

theorem State.rxpByte_of_write {s t : State} {a : Nat} {b : Byte} (hrxp : t.rxp = Memory.write s.rxp a b)
    (hresets : t.resets = s.resets) (i : Nat) : t.rxpByte i = if i = a then b else s.rxpByte i := by
  rw [State.rxpByte, State.rxpByte, hrxp, hresets, Memory.read_write]
  split_ifs <;> rfl

/-- The byte stored at `TXP[tx_len]` is the last of the longer payload. -/
theorem State.txPayload_of_write {s t : State} {b : Byte} (htxp : t.txp = Memory.write s.txp s.txLen.val b)
    (hlen : t.txLen.val = s.txLen.val + 1) (hresets : t.resets = s.resets) : t.txPayload = s.txPayload ++ [b] := by
  rw [State.txPayload, hlen, map_range_succ_of_write (State.txpByte_of_write htxp hresets), State.txPayload]

/-- The second state is the first but for the transmit registers, `TXP` and the response. -/
def SameButTransmit (s t : State) : Prop :=
  t = { s with txCmd := t.txCmd, txLen := t.txLen, txCsum := t.txCsum, txp := t.txp, resp := t.resp }

theorem SameButTransmit.refl (s : State) : SameButTransmit s s := rfl

theorem SameButTransmit.trans {s t u : State} (h : SameButTransmit s t) (g : SameButTransmit t u) :
    SameButTransmit s u := by
  rw [SameButTransmit, h] at g
  exact g

theorem SameButTransmit.fault_eq {s t : State} (h : SameButTransmit s t) : t.fault = s.fault :=
  (congrArg State.fault h :)

theorem SameButTransmit.groups {s t : State} (h : SameButTransmit s t) :
    SameReceive s t ∧ SameQueue s t ∧ SameControl s t ∧ SameOutside s t := by
  rw [h]
  exact ⟨⟨rfl, rfl, rfl, rfl, rfl, fun _ => rfl⟩, ⟨rfl, rfl, fun _ => rfl⟩, ⟨rfl, rfl⟩, rfl, rfl⟩

/-- `TXNEW` empties the payload (R112). -/
theorem execTxnew_starts (c : Byte) {s : State} (hf : s.fault = false) :
    ∃ t, execTxnew c s = .next t ∧ t.resp = some Response.blank ∧ SameButTransmit s t ∧
      t.txLen.val = 0 ∧ t.txCmd = c ∧ t.txPayload = [] :=
  ⟨_, execTxnew_running c hf, rfl, rfl, rfl, rfl, rfl⟩

/-- An append for which there is room puts its byte behind the payload (R113). -/
theorem execTxapp_appends (b : Byte) {s : State} (hf : s.fault = false) (room : s.txLen.val < 128) :
    ∃ t, execTxapp b s = .next t ∧ t.resp = some Response.blank ∧ SameButTransmit s t ∧
      t.txLen.val = s.txLen.val + 1 ∧ t.txCmd = s.txCmd ∧ t.txPayload = s.txPayload ++ [b] :=
  ⟨_, execTxapp_running b hf room, rfl, rfl, rfl, rfl, State.txPayload_of_write rfl rfl rfl⟩

/-- `TXENC` answers with the wire frame of the command and payload held (R114). -/
theorem execTxenc_encodes {s : State} {c : Byte} {p : List Byte} (hf : s.fault = false) (hcmd : s.txCmd = c)
    (hpay : s.txPayload = p) :
    ∃ t, execTxenc s = .next t ∧
      t.resp = some { Response.blank with wire := wireBytes c p (csum8 (summedBytes c p)) } ∧ SameButTransmit s t ∧
      t.txCmd = c ∧ t.txPayload = p ∧ t.txCsum = csum8 (summedBytes c p) := by
  subst hcmd hpay
  exact ⟨_, execTxenc_running hf, rfl, rfl, rfl, rfl, rfl⟩

theorem feedsBlank_txapp (p : List Byte) {s : State} (hf : s.fault = false) (hroom : s.txLen.val + p.length ≤ 128) :
    ∃ t, FeedsBlank (p.map fun b => opInput (.txapp b)) s t ∧ SameButTransmit s t ∧
      t.txLen.val = s.txLen.val + p.length ∧ t.txCmd = s.txCmd ∧ t.txPayload = s.txPayload ++ p := by
  induction p generalizing s with
  | nil => exact ⟨s, .nil s, .refl s, rfl, rfl, s.txPayload.append_nil.symm⟩
  | cons b p ih =>
    rw [List.length_cons] at hroom
    obtain ⟨u, happ, hresp, hsu, hulen, hucmd, hupay⟩ := execTxapp_appends b hf (by omega)
    obtain ⟨t, hfeed, hut, htlen, htcmd, htpay⟩ := ih (hsu.fault_eq.trans hf) (by omega)
    refine ⟨t, .cons happ hresp hfeed, hsu.trans hut, ?_, htcmd.trans hucmd, ?_⟩
    · rw [htlen, hulen, List.length_cons]
      omega
    · rw [htpay, hupay, ← List.append_cons]

/-- `TXFRAME c, p` (R75): `TXNEW` empties the payload, the appends build it, and `TXENC` encodes it. -/
theorem feed_txframe (c : Byte) (p : List Byte) {s : State} (hf : s.fault = false) (hlen : p.length ≤ 128) :
    ∃ t, feed (txframe c p) s =
        some (t, List.replicate (1 + p.length) (some Response.blank) ++
          [some { Response.blank with wire := wireBytes c p (csum8 (summedBytes c p)) }]) ∧
      SameButTransmit s t ∧ t.txCmd = c ∧ t.txPayload = p ∧ t.txCsum = csum8 (summedBytes c p) := by
  obtain ⟨u, hnew, hresp, hsu, hulen, hucmd, hupay⟩ := execTxnew_starts c hf
  have huf : u.fault = false := hsu.fault_eq.trans hf
  obtain ⟨v, happ, huv, -, hvcmd, hvpay⟩ := feedsBlank_txapp p huf (by rw [hulen]; omega)
  have hvf : v.fault = false := huv.fault_eq.trans huf
  rw [hupay, List.nil_append] at hvpay
  obtain ⟨t, henc, hwire, hvt, htx⟩ := execTxenc_encodes hvf (hvcmd.trans hucmd) hvpay
  refine ⟨t, ?_, hsu.trans (huv.trans hvt), htx⟩
  have hblank := FeedsBlank.cons (i := .txnew c) hnew hresp happ
  rw [txframe, hblank.feed_concat (i := .txenc) henc, hwire, List.length_cons, List.length_map, Nat.add_comm]

end Sys2Proof.Machine
end

section
/-! SUPPORT. A frame fed to the receiver byte by byte: the sync byte, the length, the command, the payload, the last byte (R60,
R86). -/

namespace Sys2Proof.Machine

@[simp] theorem rxs_length (bs : List Byte) : (rxs bs).length = bs.length := List.length_map _

theorem execRxb_running (b : Byte) {s : State} (hf : s.fault = false) : execRxb b s = rxArm b s :=
  whenRunning_running s (rxArm b) hf

/-- A hunting receiver takes the sync byte and has a cleared frame: by R87 in `Init`, by I6 of R34 in `Sync`. -/
theorem execRxb_sync {s : State} (hinv : StateInv s) (hhunt : Hunting s) :
    ∃ t, execRxb Config.sync s = .next t ∧ t.resp = some Response.blank ∧ t.fault = false ∧ t.rxState = .lenLow ∧
      t.rxLen = 0 ∧ t.rxCsum = 0 := by
  obtain ⟨hf, hst | hst⟩ := hhunt
  · exact ⟨_, (execRxb_running _ hf).trans (rxArm_init _ hst), rfl, hf, rfl, rfl, rfl⟩
  · obtain ⟨hlen, -, hsum⟩ := hinv.headerCleared (.inl hst)
    exact ⟨_, (execRxb_running _ hf).trans (rxArm_sync _ hst), rfl, hf, rfl, hlen, hsum⟩

theorem lenLow_toNat {n : Nat} (hn : n ≤ 128) : (lenLow n).toNat = n := by
  rw [lenLow, BitVec.toNat_ofNat]
  omega

theorem lenHigh_toNat {n : Nat} (hn : n ≤ 128) : (lenHigh n).toNat = 0 := by
  rw [lenHigh, BitVec.toNat_ofNat]
  omega

theorem execRxb_lenLow (b : Byte) {s : State} (hf : s.fault = false) (hst : s.rxState = .lenLow) :
    ∃ t, execRxb b s = .next t ∧ t.resp = some Response.blank ∧ t.fault = false ∧ t.rxState = .lenHigh ∧
      t.rxLen = setLenLow s.rxLen b ∧ t.rxCsum = add8 s.rxCsum b :=
  ⟨_, (execRxb_running b hf).trans (rxArm_lenLow b hst), rfl, hf, rfl, rfl, rfl⟩

/-- A declared length of at most 128 leads to `Command` (R93). -/
theorem execRxb_lenHigh_of_le {b : Byte} {s : State} (hf : s.fault = false) (hst : s.rxState = .lenHigh)
    (hle : (setLenHigh s.rxLen b).toNat ≤ 128) :
    ∃ t, execRxb b s = .next t ∧ t.resp = some Response.blank ∧ t.fault = false ∧ t.rxState = .command ∧
      t.rxLen = setLenHigh s.rxLen b ∧ t.rxCsum = add8 s.rxCsum b := by
  have hfits : oversizeLength (setLenHigh s.rxLen b) = false := by
    rw [Bool.eq_false_iff, ne_eq, oversizeLength_iff]
    exact not_lt.mpr hle
  have harm := (execRxb_running b hf).trans (rxArm_lenHigh b hst)
  rw [rxLenHighArm, hfits] at harm
  exact ⟨_, harm, rfl, hf, rfl, rfl, rfl⟩

/-- The two bytes of a length of at most 128 declare it (R63, R92, R93). -/
theorem feedsBlank_length {n : Nat} {s : State} (hn : n ≤ 128) (hf : s.fault = false) (hst : s.rxState = .lenLow)
    (hlen : s.rxLen = 0) (hsum : s.rxCsum = 0) :
    ∃ t, FeedsBlank (rxs [lenLow n, lenHigh n]) s t ∧ t.fault = false ∧ t.rxState = .command ∧ t.rxLen.toNat = n ∧
      t.rxCsum = sum8 [lenLow n, lenHigh n] := by
  obtain ⟨u, hlow, hlowResp, huf, hust, hulen, husum⟩ := execRxb_lenLow (lenLow n) hf hst
  have hdeclared : (setLenHigh u.rxLen (lenHigh n)).toNat = n := by
    have hzero : s.rxLen.toNat = 0 := congrArg BitVec.toNat hlen
    rw [hulen, setLenHigh_toNat, setLenLow_toNat, lenLow_toNat hn, lenHigh_toNat hn, hzero]
    omega
  obtain ⟨t, hhigh, hhighResp, htf, htst, htlen, htsum⟩ := execRxb_lenHigh_of_le huf hust (hdeclared.trans_le hn)
  refine ⟨t, .cons hlow hlowResp (.cons hhigh hhighResp (.nil t)), htf, htst, htlen ▸ hdeclared, ?_⟩
  calc t.rxCsum = add8 (add8 0 (lenLow n)) (lenHigh n) := by rw [htsum, husum, hsum]
    _ = add8 (sum8 [lenLow n]) (lenHigh n) := congrArg (add8 · (lenHigh n)) (sum8_concat [] (lenLow n)).symm
    _ = sum8 [lenLow n, lenHigh n] := (sum8_concat [lenLow n] (lenHigh n)).symm

/-- The receiver has taken the header of a frame that declares `n` payload bytes and has the command `c`, and the payload bytes
`q`. -/
structure AwaitsRest (n : Nat) (c : Byte) (q : List Byte) (s : State) : Prop where
  running : s.fault = false
  state : s.rxState = if q.length = n then .checksum else .data
  declared : s.rxLen.toNat = n
  command : s.rxCmd = c
  summed : s.rxCsum = sum8 (lenLow n :: lenHigh n :: c :: q)
  counted : q.length ≠ n → s.rxCnt.val = q.length
  stored : (List.range q.length).map s.rxpByte = q

/-- The command byte leads to the payload, or straight to `Checksum` when there is none (R94). -/
theorem execRxb_command (c : Byte) {n : Nat} {s : State} (hf : s.fault = false) (hst : s.rxState = .command)
    (hlen : s.rxLen.toNat = n) (hsum : s.rxCsum = sum8 [lenLow n, lenHigh n]) :
    ∃ t, execRxb c s = .next t ∧ t.resp = some Response.blank ∧ AwaitsRest n c [] t := by
  refine ⟨_, (execRxb_running c hf).trans (rxArm_command c hst), rfl, ?_⟩
  have hempty : s.rxLen = 0 ↔ 0 = n := by
    rw [← hlen, eq_comm (a := 0), BitVec.toNat_eq]
    rfl
  exact
    { running := hf
      state := if_congr hempty rfl rfl
      declared := hlen
      command := rfl
      summed := by
        change add8 s.rxCsum c = sum8 ([lenLow n, lenHigh n] ++ [c])
        rw [sum8_concat, hsum]
      counted := fun hne => congrArg Fin.val (if_neg (hempty.not.mpr hne) : (if s.rxLen = 0 then s.rxCnt else 0) = 0)
      stored := rfl }

/-- One payload byte more (R95). -/
theorem AwaitsRest.execRxb_data {n : Nat} {c : Byte} {q : List Byte} {s : State} (h : AwaitsRest n c q s) (b : Byte)
    (hn : n ≤ 128) (hq : q.length < n) :
    ∃ t, execRxb b s = .next t ∧ t.resp = some Response.blank ∧ AwaitsRest n c (q ++ [b]) t := by
  have hcnt : s.rxCnt.val = q.length := h.counted hq.ne
  have room : s.rxCnt.val < 128 := by omega
  have hst : s.rxState = .data := h.state.trans (if_neg hq.ne)
  refine ⟨_, ((execRxb_running b h.running).trans (rxArm_data b hst)).trans (dif_pos room), rfl, ?_⟩
  exact
    { running := h.running
      state := by
        rw [List.length_append, List.length_singleton, ← h.declared, ← hcnt]
        rfl
      declared := h.declared
      command := h.command
      summed := by
        change add8 s.rxCsum b = sum8 ((lenLow n :: lenHigh n :: c :: q) ++ [b])
        rw [sum8_concat, h.summed]
      counted := fun _ => by rw [List.length_append, List.length_singleton, ← hcnt]; rfl
      stored := by
        rw [List.length_append, List.length_singleton, map_range_succ_of_write (State.rxpByte_of_write (s := s) ?_ ?_),
          h.stored]
        · exact congrArg (Memory.write s.rxp · b) hcnt
        · rfl }

theorem AwaitsRest.feedsBlank_payload {n : Nat} {c : Byte} {q : List Byte} {s : State} (h : AwaitsRest n c q s)
    (p : List Byte) (hn : n ≤ 128) (hp : q.length + p.length ≤ n) :
    ∃ t, FeedsBlank (rxs p) s t ∧ AwaitsRest n c (q ++ p) t := by
  induction p generalizing q s with
  | nil => exact ⟨s, .nil s, q.append_nil.symm ▸ h⟩
  | cons b p ih =>
    rw [List.length_cons] at hp
    obtain ⟨u, hu, hresp, hrest⟩ := h.execRxb_data b hn (by omega)
    obtain ⟨t, hfeed, ht⟩ := ih hrest (by rw [List.length_append, List.length_singleton]; omega)
    exact ⟨t, .cons hu hresp hfeed, List.append_cons q b p ▸ ht⟩

/-- The last byte ends the frame, and decides the result (R96). -/
theorem AwaitsRest.execRxb_last {c : Byte} {p : List Byte} {s : State} (h : AwaitsRest p.length c p s) (k : Byte) :
    ∃ t, execRxb k s = .next t ∧
      t.resp = some (if k = csum8 (summedBytes c p) then receivedResponse else invalidResponse) ∧
      t.rxState = .init ∧ t.rxCmd = c ∧ t.rxPayload = p ∧ t.rxCsum = csum8 (summedBytes c p) := by
  have hst : s.rxState = .checksum := h.state.trans (if_pos rfl)
  have hcsum : neg8 s.rxCsum = csum8 (summedBytes c p) := congrArg neg8 h.summed
  have hpayload : s.rxPayload = p := by rw [State.rxPayload, h.declared, h.stored]
  refine ⟨_, (execRxb_running k h.running).trans (rxArm_checksum k hst), ?_, rfl, h.command, hpayload, hcsum⟩
  simp only [State.respond_resp, hcsum, eq_comm (a := k)]
  split_ifs <;> rfl

/-- A frame with a right length, fed to a hunting receiver, whatever its last byte is. -/
theorem feed_wireBytes (c k : Byte) (p : List Byte) {s : State} (hp : p.length ≤ 128) (hinv : StateInv s)
    (hhunt : Hunting s) :
    ∃ t, feed (rxs (wireBytes c p k)) s =
        some (t, List.replicate (4 + p.length) (some Response.blank) ++
          [some (if k = csum8 (summedBytes c p) then receivedResponse else invalidResponse)]) ∧
      t.rxState = .init ∧ t.rxCmd = c ∧ t.rxPayload = p ∧ t.rxCsum = csum8 (summedBytes c p) := by
  obtain ⟨s₁, hsync, hresp₁, hf₁, hst₁, hlen₁, hsum₁⟩ := execRxb_sync hinv hhunt
  obtain ⟨s₂, hlength, hf₂, hst₂, hlen₂, hsum₂⟩ := feedsBlank_length hp hf₁ hst₁ hlen₁ hsum₁
  obtain ⟨s₃, hcommand, hresp₃, hrest⟩ := execRxb_command c hf₂ hst₂ hlen₂ hsum₂
  obtain ⟨s₄, hpayload, hrest⟩ := hrest.feedsBlank_payload p hp (by simp)
  obtain ⟨t, hlast, hresp, hend⟩ := hrest.execRxb_last k
  have hblank : FeedsBlank (rxs (Config.sync :: summedBytes c p)) s s₄ :=
    .cons hsync hresp₁ (hlength.append (.cons hcommand hresp₃ hpayload))
  refine ⟨t, ?_, hend⟩
  have hcount : (rxs (Config.sync :: summedBytes c p)).length = 4 + p.length := by
    simp only [rxs_length, summedBytes, List.length_cons]
    omega
  rw [wireBytes, rxs_append, rxs_cons k, rxs_nil, hblank.feed_concat (i := .rxb k) hlast, hresp, hcount]

end Sys2Proof.Machine
end

section
/-! The statements of 30_encoding.md. -/

namespace Sys2Proof.Proofs

open Sys2Proof.Machine

/-- Settles O1, operation by operation, from the fields of an operation's word. -/
theorem decodeInvertsEncode : Obligations.DecodeInvertsEncode :=
  decode_encode

/-- Settles O29: a frame fed byte by byte, whatever its last byte is. -/
theorem lastByteDecidesTheResult : Obligations.LastByteDecidesTheResult :=
  fun c k p _ hp hinv hhunt => feed_wireBytes c k p hp hinv hhunt

/-- Settles O2: a word that decodes has the fields of the operation it decodes to. -/
theorem encodeInvertsDecode : Obligations.EncodeInvertsDecode :=
  fun _ _ => encode_of_decode

/-- Settles O3, each row by the shape of its operands. -/
theorem decodeFollowsOperationMap : Obligations.DecodeFollowsOperationMap := by
  intro w
  simp only [decode_eq_ok_iff]
  exact ⟨fun b => ofWord_eq_byteRow_iff w 0x1 b, (and_0xFFFF_eq_iff w ⟨0x2, 0, 0, 0⟩).symm,
    (and_0xFFFF_eq_iff w ⟨0x3, 0, 0, 0⟩).symm, fun c => ofWord_eq_byteRow_iff w 0x4 c,
    fun b => ofWord_eq_byteRow_iff w 0x5 b, (and_0xFFFF_eq_iff w ⟨0x6, 0, 0, 0⟩).symm,
    fun d u => ofWord_eq_eventRow_iff w 0x8 d u, (and_0xFFFF_eq_iff w ⟨0x9, 0, 0, 0⟩).symm⟩

/-- Settles O4: the second clause is the decoder's first test, and the other three are those of `decodeOp`. -/
theorem reservedWordsAreTheFourClauses : Obligations.ReservedWordsAreTheFourClauses := by
  intro w
  rw [decode_error_iff, decodeOp_error_iff, or_left_comm]
  rfl

/-- Settles O14: an operation answers with the refusal while faulted, else with a response of its own. -/
theorem responseFieldsBelongToTheirOperations : Obligations.ResponseFieldsBelongToTheirOperations := by
  intro i s t h
  obtain ⟨hf, hr⟩ | ⟨hf, r, hr, hown⟩ := exec_resp h
  · exact ⟨_, hr, by simp [hf, Response.ofStatus, Response.blank]⟩
  · refine ⟨r, hr, ?_⟩
    cases i with
    | rxb b => obtain ⟨_, _, rfl⟩ := hown; simp [hf, Response.blank]
    | txenc => obtain ⟨_, rfl⟩ := hown; simp [hf, Response.blank]
    | push d u => obtain ⟨_, rfl⟩ := hown; simp [hf, Response.blank]
    | txapp b => obtain rfl | rfl := hown <;> simp [hf, Response.ofStatus, Response.blank]
    | pop => obtain rfl | ⟨_, rfl⟩ := hown <;> simp [hf, Response.blank]
    | abort | modek | txnew c => obtain rfl := hown; simp [hf, Response.blank]

/-- Settles O39, from `TXFRAME` as a sequence of inputs; it writes the transmit group only. -/
theorem txframeBuildsTheWireFrame : Obligations.TxframeBuildsTheWireFrame := by
  intro c p s hf hlen
  obtain ⟨t, hfeed, hsame, hcmd, hpay, hcsum⟩ := feed_txframe c p hf hlen
  exact ⟨t, hfeed, hcmd, hpay, hcsum, hsame.groups⟩

/-- Settles O41, from the sum of a list and its negation modulo 256. -/
theorem checksumGeneratorLaws : Obligations.ChecksumGeneratorLaws :=
  ⟨fun bs => ⟨sum8_toNat bs, csum8_toNat bs, csum8_eq_not_add_one bs, add8_sum8_csum8 bs⟩, fun _ _ => csum8_perm,
    sum8_append⟩

/-- Settles O5: each word is the word of the operation beside it. -/
theorem traceSyntaxWordsDecode : Obligations.TraceSyntaxWordsDecode :=
  ⟨decode_encode (.rxb 0x3A), decode_encode .abort, decode_encode .modek, decode_encode (.txnew 0x20),
    decode_encode (.txapp 0x07), decode_encode .txenc, decode_encode (.push .down 0x04),
    decode_encode (.push .up 0x04), decode_encode .pop⟩

/-- Settles O7: the fields by their places in the word, the numbers and the eleven words by evaluation. -/
theorem responseWordLayout : Obligations.ResponseWordLayout := by
  refine ⟨fun r => ⟨r.word_status, r.word_result, r.word_oversize, r.word_accepted, r.word_empty, r.word_event⟩,
    by decide, by decide, ⟨fun wire => ?_, by decide⟩, by decide, by decide⟩
  rw [Response.word_withWire]
  decide

end Sys2Proof.Proofs
end

section
/-! SUPPORT. What one `RXB` leaves unchanged and what it answers with (R85, R97), and what a sequence of them leaves unchanged. -/

namespace Sys2Proof.Machine

/-! ### What `RXB` leaves unchanged (R85) -/

/-- The second state is the first but for the receive registers, `RXP` and the response. -/
def SameButReceive (s t : State) : Prop :=
  t = { s with
    rxState := t.rxState, rxLen := t.rxLen, rxCmd := t.rxCmd, rxCsum := t.rxCsum, rxCnt := t.rxCnt, rxp := t.rxp
    resp := t.resp }

theorem SameButReceive.refl (s : State) : SameButReceive s s := rfl

theorem SameButReceive.trans {s t u : State} (h : SameButReceive s t) (g : SameButReceive t u) : SameButReceive s u := by
  rw [SameButReceive, h] at g
  exact g

theorem SameButReceive.groups {s t : State} (h : SameButReceive s t) :
    SameTransmit s t ∧ SameQueue s t ∧ SameControl s t ∧ SameOutside s t := by
  rw [h]
  exact ⟨⟨rfl, rfl, rfl, fun _ => rfl⟩, ⟨rfl, rfl, fun _ => rfl⟩, ⟨rfl, rfl⟩, rfl, rfl⟩

theorem execRxb_sameButReceive {b : Byte} {s t : State} (h : execRxb b s = .next t) : SameButReceive s t := by
  obtain ⟨-, rfl⟩ | ⟨-, harm⟩ := execRxb_next h
  · exact rfl
  · exact rxArm_frame harm

theorem feed_rxs_sameButReceive {bs : List Byte} {s t : State} {rs : List (Option Response)}
    (h : feed (rxs bs) s = some (t, rs)) : SameButReceive s t := by
  induction bs generalizing s rs with
  | nil =>
    cases h
    exact .refl _
  | cons b bs ih =>
    obtain ⟨u, rs', hstep, hfeed, -⟩ := feed_cons_some h
    rw [step_present_opInput] at hstep
    exact (execRxb_sameButReceive hstep).trans (ih hfeed)

/-- The `Data` arm stores the byte at `RXP[rx_cnt]` and nowhere else (R95). -/
theorem rxDataArm_rxpByte {b : Byte} {s t : State} (h : rxDataArm b s = .next t) (i : Nat) :
    t.rxpByte i = if i = s.rxCnt.val then b else s.rxpByte i := by
  obtain ⟨_, ht⟩ := rxDataArm_next h
  exact State.rxpByte_of_write (congrArg State.rxp ht :) (congrArg State.resets ht :) i

/-- Of `RXP` only the element `rx_cnt` is written, and only in state `Data` (R95). -/
theorem rxArm_rxpByte {b : Byte} {s t : State} {i : Nat} (h : rxArm b s = .next t)
    (hi : ¬(s.rxState = .data ∧ i = s.rxCnt.val)) : t.rxpByte i = s.rxpByte i := by
  cases hst : s.rxState with
  | init => rw [rxArm_init b hst] at h; cases h; rfl
  | sync => rw [rxArm_sync b hst] at h; cases h; rfl
  | lenLow => rw [rxArm_lenLow b hst] at h; cases h; rfl
  | lenHigh => rw [rxArm_lenHigh b hst] at h; cases h; rfl
  | command => rw [rxArm_command b hst] at h; cases h; rfl
  | data =>
    rw [rxArm_data b hst] at h
    rw [rxDataArm_rxpByte h, if_neg fun hcnt => hi ⟨hst, hcnt⟩]
  | checksum => rw [rxArm_checksum b hst] at h; cases h; rfl

/-! ### What an arm answers with (R97) -/

theorem oversizeLength_eq_false_iff (len : BitVec 16) : oversizeLength len = false ↔ len.toNat ≤ 128 := by
  rw [Bool.eq_false_iff, ne_eq, oversizeLength_iff, not_lt]

/-- A response that is not blank comes from an oversize length or from the `Checksum` arm, and both end the frame (R97, R100). -/
theorem rxArm_answer {b : Byte} {s t : State} (h : rxArm b s = .next t) :
    t.resp = some Response.blank ∨
    (s.rxState = .lenHigh ∧ t.rxState = .init ∧ 128 < t.rxLen.toNat ∧
      t.resp = some { Response.blank with oversize := true }) ∨
    (s.rxState = .checksum ∧ t.rxState = .init ∧ ∃ result, t.resp = some { Response.blank with result := result }) := by
  cases hst : s.rxState with
  | init => rw [rxArm_init b hst] at h; cases h; exact .inl rfl
  | sync => rw [rxArm_sync b hst] at h; cases h; exact .inl rfl
  | lenLow => rw [rxArm_lenLow b hst] at h; cases h; exact .inl rfl
  | lenHigh =>
    rw [rxArm_lenHigh b hst, rxLenHighArm] at h
    cases hover : oversizeLength (setLenHigh s.rxLen b) with
    | false =>
      rw [hover] at h
      cases h
      exact .inl rfl
    | true =>
      rw [hover] at h
      cases h
      exact .inr (.inl ⟨rfl, rfl, (oversizeLength_iff _).mp hover, rfl⟩)
  | command => rw [rxArm_command b hst] at h; cases h; exact .inl rfl
  | data =>
    rw [rxArm_data b hst] at h
    obtain ⟨_, rfl⟩ := rxDataArm_next h
    exact .inl rfl
  | checksum => rw [rxArm_checksum b hst] at h; cases h; exact .inr (.inr ⟨rfl, rfl, _, rfl⟩)

/-- No operation but `RXB` reports a final result or an oversize length (R76). -/
theorem exec_resp_of_not_rxb {i : Instr} {s t : State} {r : Response} (h : exec i s = .next t) (hr : t.resp = some r)
    (hrxb : ∀ b, i ≠ .rxb b) : r.result = .receiving ∧ r.oversize = false := by
  obtain ⟨-, hfaulted⟩ | ⟨-, r', hr', hown⟩ := exec_resp h
  · obtain rfl := Option.some.inj (hr.symm.trans hfaulted)
    exact ⟨rfl, rfl⟩
  · obtain rfl := Option.some.inj (hr.symm.trans hr')
    cases i with
    | rxb b => exact absurd rfl (hrxb b)
    | txapp b => obtain rfl | rfl := hown <;> exact ⟨rfl, rfl⟩
    | txenc => obtain ⟨_, rfl⟩ := hown; exact ⟨rfl, rfl⟩
    | push d u => obtain ⟨_, rfl⟩ := hown; exact ⟨rfl, rfl⟩
    | pop => obtain rfl | ⟨_, rfl⟩ := hown <;> exact ⟨rfl, rfl⟩
    | abort | modek | txnew c => obtain rfl := hown; exact ⟨rfl, rfl⟩

end Sys2Proof.Machine
end

section
/-! SUPPORT. The parts of a frame with a right length (R60, R61, R63), changes of its bytes (R102, R103), and the way from `LenLow`
back to `Init` (R100). -/

namespace Sys2Proof.Machine

/-! ### The length bytes -/

theorem lenLow_declared (lo hi : Byte) : lenLow (lo.toNat + 256 * hi.toNat) = lo := by
  apply BitVec.eq_of_toNat_eq
  have hlo := lo.isLt
  rw [lenLow, BitVec.toNat_ofNat]
  omega

theorem lenHigh_declared (lo hi : Byte) : lenHigh (lo.toNat + 256 * hi.toNat) = hi := by
  apply BitVec.eq_of_toNat_eq
  have hlo := lo.isLt
  have hhi := hi.isLt
  rw [lenHigh, BitVec.toNat_ofNat]
  omega

theorem setLenLow_zero (b : Byte) : setLenLow 0 b = BitVec.ofNat 16 b.toNat := by
  apply BitVec.eq_of_toNat_eq
  have hb := b.isLt
  have hzero : (0 : BitVec 16).toNat = 0 := rfl
  rw [setLenLow_toNat, BitVec.toNat_ofNat, hzero]
  omega

/-! ### The parts of a frame -/

@[simp] theorem wireBytes_length (c k : Byte) (p : List Byte) : (wireBytes c p k).length = 5 + p.length := by
  simp only [wireBytes, summedBytes, List.length_append, List.length_cons, List.length_nil]
  omega

@[simp] theorem frameCommand_wireBytes (c k : Byte) (p : List Byte) : frameCommand (wireBytes c p k) = c := rfl

@[simp] theorem framePayload_wireBytes (c k : Byte) (p : List Byte) : framePayload (wireBytes c p k) = p :=
  List.dropLast_concat

@[simp] theorem getLast?_wireBytes (c k : Byte) (p : List Byte) : (wireBytes c p k).getLast? = some k :=
  List.getLast?_concat

/-- Everything behind the sync byte: what the checksum is taken over, and the last byte. -/
theorem drop_one_wireBytes (c k : Byte) (p : List Byte) : (wireBytes c p k).drop 1 = summedBytes c p ++ [k] := rfl

/-- A list of at least five bytes, cut where a frame is (R60). -/
theorem exists_frame_parts {f : List Byte} {n : Nat} (h : f.length = n + 5) :
    ∃ sync lo hi c p k, f = sync :: lo :: hi :: c :: (p ++ [k]) := by
  match f, h with
  | sync :: lo :: hi :: c :: k :: rest, _ =>
    have hsplit : (k :: rest).dropLast ++ [(k :: rest).getLast (List.cons_ne_nil k rest)] = k :: rest :=
      List.dropLast_append_getLast _
    exact ⟨sync, lo, hi, c, _, _, by rw [hsplit]⟩

/-- A list of bytes that begins with the sync byte and is as long as it declares is a frame, whatever its last byte is. -/
theorem exists_eq_wireBytes_of_length {f : List Byte} (hhead : f.head? = some 0x3A) (hlen : f.length = 5 + declaredLen f) :
    ∃ c p k, p.length = declaredLen f ∧ f = wireBytes c p k := by
  obtain ⟨sync, lo, hi, c, p, k, rfl⟩ := exists_frame_parts (hlen.trans (Nat.add_comm _ _))
  obtain rfl := Option.some.inj hhead
  have hp : p.length = lo.toNat + 256 * hi.toNat := by
    change p.length = declaredLen (0x3A :: lo :: hi :: c :: (p ++ [k]))
    simp only [List.length_cons, List.length_append, List.length_nil] at hlen
    omega
  refine ⟨c, p, k, hp, ?_⟩
  rw [wireBytes, summedBytes, hp, lenLow_declared, lenHigh_declared]
  rfl

/-- A valid frame is the wire frame of its command and payload with their checksum (R60, R61). -/
theorem ValidFrame.exists_eq_wireBytes {f : List Byte} (h : ValidFrame f) :
    ∃ c p, p.length = declaredLen f ∧ p.length ≤ 128 ∧ f = wireBytes c p (csum8 (summedBytes c p)) := by
  obtain ⟨hhead, hcap, hlen, hlast⟩ := h
  obtain ⟨c, p, k, hp, hf⟩ := exists_eq_wireBytes_of_length hhead hlen
  rw [hf, getLast?_wireBytes, drop_one_wireBytes, List.dropLast_concat] at hlast
  obtain rfl := Option.some.inj hlast
  exact ⟨c, p, hp, hp.trans_le hcap, hf⟩

/-! ### Changed bytes -/

/-- A last byte is the checksum exactly when it brings the sum to zero (R64). -/
theorem eq_csum8_iff (k : Byte) (bs : List Byte) : k = csum8 bs ↔ sum8 (bs ++ [k]) = 0 := by
  rw [sum8_concat, add8, csum8, neg8, eq_neg_iff_add_eq_zero, add_comm]

/-- One changed byte changes the sum. -/
theorem sum8_set_ne {bs : List Byte} {n : Nat} {x : Byte} (hn : n < bs.length) (hx : bs[n]? ≠ some x) :
    sum8 (bs.set n x) ≠ sum8 bs := by
  induction bs generalizing n with
  | nil => exact absurd hn (Nat.not_lt_zero n)
  | cons b bs ih =>
    cases n with
    | zero => exact fun h => hx (congrArg some (add_right_cancel h).symm)
    | succ n => exact fun h => ih (Nat.lt_of_succ_lt_succ hn) hx (add_left_cancel h)

theorem declaredLen_set {f : List Byte} {n : Nat} (x : Byte) (hn : 3 ≤ n) : declaredLen (f.set n x) = declaredLen f := by
  have hkeep : ∀ i, i < 3 → (f.set n x).getD i 0 = f.getD i 0 := fun i hi => by
    rw [List.getD_eq_getElem?_getD, List.getElem?_set_ne (by omega), ← List.getD_eq_getElem?_getD]
  rw [declaredLen, declaredLen, hkeep 1 (by decide), hkeep 2 (by decide)]

theorem head?_set_of_pos {f : List Byte} {n : Nat} (x : Byte) (hn : 0 < n) : (f.set n x).head? = f.head? := by
  rw [List.head?_eq_getElem?, List.head?_eq_getElem?, List.getElem?_set_ne hn.ne']

/-- A valid frame with one byte behind the length bytes changed is a frame of the same length whose last byte is not its
checksum (R102). -/
theorem ValidFrame.set_eq_wireBytes {f : List Byte} {n : Nat} {x : Byte} (h : ValidFrame f) (hn : 3 ≤ n)
    (hlt : n < f.length) (hx : f[n]? ≠ some x) :
    ∃ c p k, p.length ≤ 128 ∧ f.length = 5 + p.length ∧ f.set n x = wireBytes c p k ∧ k ≠ csum8 (summedBytes c p) := by
  obtain ⟨c₀, p₀, -, -, hf⟩ := h.exists_eq_wireBytes
  obtain ⟨hhead, hcap, hlen, -⟩ := h
  have hdeclared : declaredLen (f.set n x) = declaredLen f := declaredLen_set x hn
  obtain ⟨c, p, k, hp, hset⟩ := exists_eq_wireBytes_of_length (f := f.set n x)
    ((head?_set_of_pos x (by omega)).trans hhead) (by rw [List.length_set, hdeclared, hlen])
  rw [hdeclared] at hp
  refine ⟨c, p, k, hp.trans_le hcap, hp ▸ hlen, hset, fun hk => ?_⟩
  have hzero : sum8 (f.drop 1) = 0 := by
    rw [hf, drop_one_wireBytes]
    exact (eq_csum8_iff _ _).mp rfl
  have hzero' : sum8 ((f.drop 1).set (n - 1) x) = 0 := by
    rw [List.set_drop, Nat.add_sub_cancel' (by omega), hset, drop_one_wireBytes]
    exact (eq_csum8_iff _ _).mp hk
  refine sum8_set_ne ?_ ?_ (hzero'.trans hzero.symm)
  · rw [List.length_drop]
    omega
  · rwa [List.getElem?_drop, Nat.add_sub_cancel' (by omega)]

/-- The checksum depends on command and payload through their length and their sum only (R103). -/
theorem csum8_summedBytes_congr {c d : Byte} {p q : List Byte} (hlen : q.length = p.length)
    (hsum : sum8 (c :: p) = sum8 (d :: q)) : csum8 (summedBytes c p) = csum8 (summedBytes d q) := by
  simp only [csum8, summedBytes, hlen, sum8] at hsum ⊢
  rw [hsum]

/-! ### From `LenLow` back to `Init` -/

/-- A declared length above 128 ends the frame (R93). -/
theorem execRxb_lenHigh_of_oversize {b : Byte} {s : State} (hf : s.fault = false) (hst : s.rxState = .lenHigh)
    (hover : 128 < (setLenHigh s.rxLen b).toNat) :
    ∃ t, execRxb b s = .next t ∧ t.resp = some { Response.blank with oversize := true } ∧ t.rxState = .init := by
  have harm := (execRxb_running b hf).trans (rxArm_lenHigh b hst)
  rw [rxLenHighArm, (oversizeLength_iff _).mpr hover] at harm
  exact ⟨_, harm, rfl, rfl⟩

theorem feed_oversize_length {lo hi : Byte} {s : State} (hf : s.fault = false) (hst : s.rxState = .lenLow)
    (hlen : s.rxLen = 0) (hover : 128 < lo.toNat + 256 * hi.toNat) :
    ∃ t rs, feed (rxs [lo, hi]) s = some (t, rs) ∧ t.rxState = .init := by
  obtain ⟨u, hlow, hresp, huf, hust, hulen, -⟩ := execRxb_lenLow lo hf hst
  have hdeclared : 128 < (setLenHigh u.rxLen hi).toNat := by
    have hzero : s.rxLen.toNat = 0 := congrArg BitVec.toNat hlen
    have hlo := lo.isLt
    rw [hulen, setLenHigh_toNat, setLenLow_toNat, hzero]
    omega
  obtain ⟨t, hhigh, -, ht⟩ := execRxb_lenHigh_of_oversize huf hust hdeclared
  have hblank : FeedsBlank (rxs [lo]) s u := .cons hlow hresp (.nil u)
  exact ⟨t, _, hblank.feed_concat (i := .rxb hi) hhigh, ht⟩

theorem AwaitsRest.rxState_ne_init {n : Nat} {c : Byte} {q : List Byte} {s : State} (h : AwaitsRest n c q s) :
    s.rxState ≠ .init := by
  rw [h.state]
  split_ifs <;> decide

/-- With the command byte taken, the payload and one byte more are needed to come back to `Init` (R100). -/
theorem AwaitsRest.feed_init_iff {n : Nat} {c : Byte} {s : State} (h : AwaitsRest n c [] s) (hn : n ≤ 128)
    (bs : List Byte) (hbs : bs.length ≤ n + 1) :
    ∃ t rs, feed (rxs bs) s = some (t, rs) ∧ (t.rxState = .init ↔ bs.length = n + 1) := by
  obtain hle | hfull := Nat.le_or_eq_of_le_succ hbs
  · obtain ⟨t, hfeed, hrest⟩ := h.feedsBlank_payload bs hn (by simpa using hle)
    exact ⟨t, _, hfeed, iff_of_false hrest.rxState_ne_init (by omega)⟩
  · obtain rfl | ⟨p, k, rfl⟩ := bs.eq_nil_or_concat'
    · cases hfull
    · rw [List.length_append, List.length_singleton] at hfull
      obtain rfl := Nat.succ.inj hfull
      obtain ⟨u, hfeed, hrest⟩ := h.feedsBlank_payload p hn (by simp)
      obtain ⟨t, hlast, -, hinit, -⟩ := hrest.execRxb_last k
      have hall := hfeed.feed_concat (i := .rxb k) hlast
      rw [← rxs_nil, ← rxs_cons, ← rxs_append] at hall
      exact ⟨t, _, hall, iff_of_true hinit (by simp)⟩

/-- With the length bytes taken, the command, the payload and one byte more are needed to come back to `Init` (R100). -/
theorem feed_from_command_init_iff {n : Nat} {s : State} (hn : n ≤ 128) (hf : s.fault = false)
    (hst : s.rxState = .command) (hlen : s.rxLen.toNat = n) (hsum : s.rxCsum = sum8 [lenLow n, lenHigh n])
    (bs : List Byte) (hbs : bs.length ≤ n + 2) :
    ∃ t rs, feed (rxs bs) s = some (t, rs) ∧ (t.rxState = .init ↔ bs.length = n + 2) := by
  cases bs with
  | nil => exact ⟨s, [], rfl, iff_of_false (by rw [hst]; decide) (by simp)⟩
  | cons c bs =>
    obtain ⟨u, hcommand, -, hrest⟩ := execRxb_command c hf hst hlen hsum
    obtain ⟨t, rs, hfeed, hinit⟩ := hrest.feed_init_iff hn bs (Nat.le_of_succ_le_succ hbs)
    refine ⟨t, u.resp :: rs, ?_, hinit.trans Nat.succ_inj.symm⟩
    rw [rxs_cons, feed_cons_next _ ((step_present_opInput (.rxb c) s).trans hcommand), hfeed]
    rfl

end Sys2Proof.Machine
end

section
/-! The statements of 40_receive.md. -/

namespace Sys2Proof.Proofs

open Sys2Proof.Machine

/-- Settles O28: a valid frame is the wire frame of its command and payload with their checksum, and such a frame is received;
`RXB` writes the receive group only. -/
theorem validFrameIsReceived : Obligations.ValidFrameIsReceived := by
  intro f s hvalid hinv hhunt
  obtain ⟨c, p, hlen, hp, hf⟩ := hvalid.exists_eq_wireBytes
  obtain ⟨t, hfeed, hst, hcmd, hpay, hcsum⟩ := feed_wireBytes c (csum8 (summedBytes c p)) p hp hinv hhunt
  rw [if_pos rfl] at hfeed
  have hsame : SameButReceive s t := feed_rxs_sameButReceive hfeed
  have hrxLen : t.rxLen.toNat = declaredLen f := by rw [← t.rxPayload_length, hpay, hlen]
  have hcount : f.length - 1 = 4 + p.length := by
    rw [hf, wireBytes_length]
    omega
  refine ⟨t, ?_, hst, ?_, hrxLen, ?_, ?_, hsame.groups⟩
  · rw [hcount, hf, hfeed]
  · rw [hf, frameCommand_wireBytes, hcmd]
  · rw [hf, framePayload_wireBytes, hpay]
  · rw [hf, getLast?_wireBytes, hcsum]

/-- Settles O24: no arm writes another register, and only the `Data` arm writes `RXP`. -/
theorem rxbFrame : Obligations.RxbFrame := by
  intro b s t h
  obtain ⟨htx, hq, hctl, hout⟩ := (execRxb_sameButReceive h).groups
  refine ⟨htx, hq, hctl, hout, fun i hi => ?_⟩
  obtain ⟨-, rfl⟩ | ⟨hf, harm⟩ := execRxb_next h
  · rfl
  · exact rxArm_rxpByte harm fun hdata => hi ⟨hf, hdata⟩

/-- Settles O26: only `RXB` has the two fields, and of its arms only two answer with more than the blank response. -/
theorem finalResultsComeFromChecksumStep : Obligations.FinalResultsComeFromChecksumStep := by
  intro i s t r h hr
  by_cases hrxb : ∃ b, i = .rxb b
  case neg =>
    obtain ⟨hresult, hover⟩ := exec_resp_of_not_rxb h hr (not_exists.mp hrxb)
    exact ⟨fun hne => absurd hresult hne, fun htrue => absurd (hover.symm.trans htrue) nofun⟩
  case pos =>
    obtain ⟨b, rfl⟩ := hrxb
    obtain ⟨-, rfl⟩ | ⟨-, harm⟩ := execRxb_next h
    · obtain rfl := Option.some.inj hr
      exact ⟨fun hne => absurd rfl hne, nofun⟩
    obtain hblank | ⟨hst, hinit, hlen, hover⟩ | ⟨hst, hinit, result, hfinal⟩ := rxArm_answer harm
    · obtain rfl := Option.some.inj (hr.symm.trans hblank)
      exact ⟨fun hne => absurd rfl hne, nofun⟩
    · obtain rfl := Option.some.inj (hr.symm.trans hover)
      exact ⟨fun hne => absurd rfl hne, fun _ => ⟨⟨b, rfl⟩, hst, hinit, hlen⟩⟩
    · obtain rfl := Option.some.inj (hr.symm.trans hfinal)
      exact ⟨fun _ => ⟨⟨b, rfl⟩, hst, hinit, rfl⟩, nofun⟩

/-- Settles O30: the changed frame has a right length, and its sum is no longer zero. -/
theorem singleCorruptedByteIsDetected : Obligations.SingleCorruptedByteIsDetected := by
  intro f n x s hvalid hinv hhunt hn hlt hx
  obtain ⟨c, p, k, hp, hlen, hset, hk⟩ := hvalid.set_eq_wireBytes hn hlt hx
  obtain ⟨t, hfeed, hst, -⟩ := feed_wireBytes c k p hp hinv hhunt
  rw [if_neg hk] at hfeed
  have hcount : f.length - 1 = 4 + p.length := by omega
  exact ⟨t, by rw [hset, hcount, hfeed], hst⟩

/-- Settles O31: the other content has the same checksum. -/
theorem compensatingErrorsAreNotDetected : Obligations.CompensatingErrorsAreNotDetected := by
  intro c d p q s hp hlen hsum hinv hhunt
  have hcsum := csum8_summedBytes_congr hlen hsum
  obtain ⟨t, hfeed, -, hcmd, hpay, -⟩ := feed_wireBytes d (csum8 (summedBytes c p)) q (hlen.trans_le hp) hinv hhunt
  rw [if_pos hcsum, hlen] at hfeed
  exact ⟨t, hfeed, hcmd, hpay⟩

/-- Settles O32, byte class by byte class: the length bytes, the command, the payload, the last byte. -/
theorem receiverReturnsToInit : Obligations.ReceiverReturnsToInit := by
  intro lo hi rest s hinv hf hst
  obtain ⟨hlen, -, hsum⟩ := hinv.headerCleared (.inr hst)
  refine ⟨feed_oversize_length hf hst hlen, fun hcap hrest => ?_⟩
  obtain ⟨u, hlength, huf, hust, hulen, husum⟩ := feedsBlank_length hcap hf hst hlen hsum
  obtain ⟨t, rs, hfeed, hinit⟩ := feed_from_command_init_iff hcap huf hust hulen husum rest hrest
  rw [lenLow_declared, lenHigh_declared] at hlength
  have hall : feed (rxs (lo :: hi :: rest)) s = (feed (rxs rest) u).map _ := feed_append (rxs rest) hlength
  exact ⟨t, _, hall.trans (congrArg _ hfeed), hinit⟩

/-- Settles O16: the prelude clears the pending frame, and the `Sync` arm has the byte. -/
theorem rxbInitArm : Obligations.RxbInitArm :=
  fun b _ hf hst => (execRxb_running b hf).trans (rxArm_init b hst)

/-- Settles O17: the block is not faulted, so the `Sync` arm has the byte. -/
theorem rxbSyncArm : Obligations.RxbSyncArm :=
  fun b _ hf hst => (execRxb_running b hf).trans (rxArm_sync b hst)

/-- Settles O18: I6 of R34 has the length and the sum cleared. -/
theorem rxbLenLowArm : Obligations.RxbLenLowArm := by
  intro b s hinv hf hst
  obtain ⟨hlen, -, hsum⟩ := hinv.headerCleared (.inr hst)
  have hlow : setLenLow s.rxLen b = BitVec.ofNat 16 b.toNat := hlen ▸ setLenLow_zero b
  have hadd : add8 s.rxCsum b = b := hsum ▸ zero_add b
  calc exec (.rxb b) s = rxLenLowArm b s := (execRxb_running b hf).trans (rxArm_lenLow b hst)
    _ = _ := by rw [rxLenLowArm, hlow, hadd]; rfl

/-- Settles O19, by the length test of R93. -/
theorem rxbLenHighArm : Obligations.RxbLenHighArm := by
  intro b s hf hst
  have hlen := setLenHigh_toNat s.rxLen b
  refine ⟨_, (execRxb_running b hf).trans (rxArm_lenHigh b hst), rfl, hlen, fun hle => ?_, fun hover => ?_, fun hb => ?_⟩
  · have hfits : oversizeLength (setLenHigh s.rxLen b) = false := (oversizeLength_eq_false_iff _).mpr hle
    simp [hfits, Response.blank]
  · have hexceeds : oversizeLength (setLenHigh s.rxLen b) = true := (oversizeLength_iff _).mpr hover
    simp [hexceeds]
  · have hpos : b.toNat ≠ 0 := fun h => hb (BitVec.eq_of_toNat_eq h)
    refine hlen.symm ▸ ?_
    omega

/-- Settles O20, by the length test of R94. -/
theorem rxbCommandArm : Obligations.RxbCommandArm := by
  intro b s hf hst
  have harm := (execRxb_running b hf).trans (rxArm_command b hst)
  refine ⟨fun hzero => harm.trans ?_, fun hpos => harm.trans ?_⟩
  · simp only [rxCommandArm, if_pos hzero]
    rfl
  · simp only [rxCommandArm, if_neg hpos]
    rfl

/-- Settles O21: there is room, so the `Data` arm stores. -/
theorem rxbDataArm : Obligations.RxbDataArm := by
  intro b s hf hst room
  have hstore : rxDataArm b s = .next _ := dif_pos room
  have hbyte := rxDataArm_rxpByte hstore
  refine ⟨_, ((execRxb_running b hf).trans (rxArm_data b hst)).trans hstore, rfl, rfl, ?_, fun i hi => ?_⟩
  · exact (hbyte _).trans (if_pos rfl)
  · exact (hbyte i).trans (if_neg hi)

/-- Settles O22: subtraction from zero is the negation. -/
theorem rxbChecksumArm : Obligations.RxbChecksumArm := by
  intro b s hf hst
  have hneg : 0 - s.rxCsum = neg8 s.rxCsum := zero_sub s.rxCsum
  rw [hneg]
  exact (execRxb_running b hf).trans (rxArm_checksum b hst)

end Sys2Proof.Proofs
end

section
/-! SUPPORT. The transmit payload in order, an append without room, the wire frame with its checksum as numbers and as a valid
frame, and what each transmit operation leaves unchanged (R112 to R116). -/

namespace Sys2Proof.Machine

/-! ### The transmit payload and its capacity -/

theorem State.txPayload_getElem? (s : State) {i : Nat} (h : i < s.txLen.val) : s.txPayload[i]? = some (s.txpByte i) := by
  simp [State.txPayload, h]

theorem State.txPayload_length_le (s : State) : s.txPayload.length ≤ 128 :=
  s.txPayload_length.trans_le (Nat.lt_succ_iff.mp s.txLen.isLt)

/-- An append for which there is no room raises the capacity fault and stores nothing (R113, R166). -/
theorem execTxapp_full (b : Byte) {s : State} (hf : s.fault = false) (hfull : s.txLen.val = 128) :
    execTxapp b s = .next ({ s with fault := true }.respond (Response.ofStatus .capfault)) :=
  (whenRunning_running s _ hf).trans (dif_neg hfull.not_lt)

/-! ### The wire frame of a payload of at most 128 bytes -/

theorem lenHigh_eq_zero {n : Nat} (hn : n ≤ 128) : lenHigh n = 0 :=
  BitVec.eq_of_toNat_eq (lenHigh_toNat hn)

theorem wireBytes_eq {p : List Byte} (c k : Byte) (hp : p.length ≤ 128) :
    wireBytes c p k = [0x3A, BitVec.ofNat 8 p.length, 0x00, c] ++ p ++ [k] := by
  rw [wireBytes, summedBytes, lenHigh_eq_zero hp]
  rfl

/-- The checksum of a frame in integer arithmetic: the high length byte adds nothing (R64, R114). -/
theorem csum8_summedBytes {p : List Byte} (c : Byte) (hp : p.length ≤ 128) :
    csum8 (summedBytes c p) =
      BitVec.ofNat 8 ((256 - (p.length + c.toNat + (p.map BitVec.toNat).sum) % 256) % 256) := by
  have hsum : ((summedBytes c p).map BitVec.toNat).sum = p.length + c.toNat + (p.map BitVec.toNat).sum := by
    simp only [summedBytes, List.map_cons, List.sum_cons, lenLow_toNat hp, lenHigh_toNat hp]
    omega
  rw [← hsum, ← csum8_toNat, BitVec.ofNat_toNat, BitVec.setWidth_eq]

theorem declaredLen_wireBytes {p : List Byte} (c k : Byte) (hp : p.length ≤ 128) :
    declaredLen (wireBytes c p k) = p.length := by
  change (lenLow p.length).toNat + 256 * (lenHigh p.length).toNat = p.length
  rw [lenLow_toNat hp, lenHigh_toNat hp, Nat.mul_zero, Nat.add_zero]

/-- The wire frame of a command and a payload with their checksum is a valid frame (R61, R116). -/
theorem validFrame_wireBytes {p : List Byte} (c : Byte) (hp : p.length ≤ 128) :
    ValidFrame (wireBytes c p (csum8 (summedBytes c p))) := by
  have hdeclared := declaredLen_wireBytes c (csum8 (summedBytes c p)) hp
  refine ⟨rfl, hdeclared.trans_le hp, ?_, ?_⟩
  · rw [hdeclared, wireBytes_length]
  · rw [getLast?_wireBytes, drop_one_wireBytes, List.dropLast_concat]

/-- Where `TXENC` answers `OK`, its wire buffer is the wire frame of the command and payload held (R114). -/
theorem execTxenc_wire {s t : State} {r : Response} (h : execTxenc s = .next t) (hr : t.resp = some r)
    (hok : r.status = .ok) : r.wire = wireBytes s.txCmd s.txPayload (csum8 (summedBytes s.txCmd s.txPayload)) := by
  obtain ⟨-, rfl⟩ | ⟨-, rfl⟩ := execTxenc_next h
  · obtain rfl := Option.some.inj hr
    cases hok
  · obtain rfl := Option.some.inj hr
    rfl

/-! ### What each transmit operation leaves unchanged -/

theorem execTxnew_frame {c : Byte} {s t : State} (h : execTxnew c s = .next t) :
    t = { s with txCmd := t.txCmd, txLen := t.txLen, resp := t.resp } := by
  obtain ⟨-, rfl⟩ | ⟨-, rfl⟩ := execTxnew_next h <;> rfl

theorem execTxapp_frame {b : Byte} {s t : State} (h : execTxapp b s = .next t) :
    t = { s with txLen := t.txLen, txp := t.txp, fault := t.fault, resp := t.resp } := by
  obtain ⟨-, rfl⟩ | ⟨-, -, rfl⟩ | ⟨-, -, rfl⟩ := execTxapp_next h <;> rfl

theorem execTxenc_frame {s t : State} (h : execTxenc s = .next t) :
    t = { s with txCsum := t.txCsum, resp := t.resp } := by
  obtain ⟨-, rfl⟩ | ⟨-, rfl⟩ := execTxenc_next h <;> rfl

/-- An append for which there is room stores its byte at `TXP[tx_len]` and nowhere else (R113). -/
theorem execTxapp_txpByte_of_room {b : Byte} {s t : State} (h : execTxapp b s = .next t) (hf : s.fault = false)
    (room : s.txLen.val < 128) (a : Nat) : t.txpByte a = if a = s.txLen.val then b else s.txpByte a := by
  have ht := Host.Outcome.next.inj (h.symm.trans (execTxapp_running b hf room))
  exact State.txpByte_of_write (congrArg State.txp ht :) (congrArg State.resets ht :) a

/-- Of `TXP` an append writes the element `tx_len` at most (R113). -/
theorem execTxapp_txpByte {b : Byte} {s t : State} (h : execTxapp b s = .next t) {a : Nat} (ha : a ≠ s.txLen.val) :
    t.txpByte a = s.txpByte a := by
  obtain ⟨-, rfl⟩ | ⟨hf, room, -⟩ | ⟨-, -, rfl⟩ := execTxapp_next h
  · rfl
  · exact (execTxapp_txpByte_of_room h hf room a).trans (if_neg ha)
  · rfl

/-- The transmit operations write the transmit group, the response and, when an append finds no room, `fault` (R41, R166). -/
theorem exec_transmit_sameButTransmit {i : Instr} {s t : State} (h : exec i s = .next t)
    (hi : (∃ c, i = .txnew c) ∨ (∃ b, i = .txapp b) ∨ i = .txenc) : SameButTransmit { s with fault := t.fault } t := by
  obtain ⟨c, rfl⟩ | ⟨b, rfl⟩ | rfl := hi
  · rw [execTxnew_frame h, SameButTransmit]
  · rw [execTxapp_frame h, SameButTransmit]
  · rw [execTxenc_frame h, SameButTransmit]

end Sys2Proof.Machine
end

section
/-! The statements of 41_transmit.md. -/

namespace Sys2Proof.Proofs

open Sys2Proof.Machine

/-- Settles O38: the wire is the wire frame of the command and payload held, which is a valid frame and is received whole. -/
theorem encodedWireIsValidAndReceived : Obligations.EncodedWireIsValidAndReceived := by
  intro s t r h hr hok
  have hp := s.txPayload_length_le
  rw [execTxenc_wire h hr hok]
  refine ⟨validFrame_wireBytes s.txCmd hp, ?_, fun u hinv hhunt => ?_⟩
  · rw [wireBytes_length, s.txPayload_length]
  · obtain ⟨v, hfeed, -, hcmd, hpay, -⟩ := feed_wireBytes s.txCmd _ s.txPayload hp hinv hhunt
    rw [if_pos rfl, s.txPayload_length] at hfeed
    exact ⟨v, hfeed, hcmd, hpay⟩

/-- Settles O37: no transmit operation writes outside its group, but for the fault of a `TXAPP`; then operation by operation. -/
theorem transmitFrame : Obligations.TransmitFrame := by
  intro i s t h hi
  obtain ⟨hrx, hq, ⟨hmode, -⟩, hout⟩ := (exec_transmit_sameButTransmit h hi).groups
  refine ⟨hrx, hq, hout, hmode, ?_⟩
  obtain ⟨c, rfl⟩ | ⟨b, rfl⟩ | rfl := hi
  · have hframe := execTxnew_frame h
    have htxp : ∀ a, t.txpByte a = s.txpByte a := fun a => (congrArg (State.txpByte · a) hframe :)
    exact ⟨fun _ => ⟨(congrArg State.fault hframe :), htxp⟩, fun a _ => htxp a, fun hne => absurd rfl (hne c),
      fun _ => (congrArg State.txCsum hframe :), nofun⟩
  · have hframe := execTxapp_frame h
    exact ⟨fun hne => absurd rfl (hne b), fun _ => execTxapp_txpByte h, fun _ => (congrArg State.txCmd hframe :),
      fun _ => (congrArg State.txCsum hframe :), nofun⟩
  · have hframe := execTxenc_frame h
    have htxp : ∀ a, t.txpByte a = s.txpByte a := fun a => (congrArg (State.txpByte · a) hframe :)
    exact ⟨fun _ => ⟨(congrArg State.fault hframe :), htxp⟩, fun a _ => htxp a,
      fun _ => (congrArg State.txCmd hframe :), fun hne => absurd rfl hne, fun _ => (congrArg State.txLen hframe :)⟩

/-- Settles O40: 128 appends fill the payload, and the append behind them finds no room. -/
theorem appendingPastCapacityFaults : Obligations.AppendingPastCapacityFaults := by
  intro c b p s hf hp
  obtain ⟨u, hnew, hresp, hsu, hulen, hucmd, hupay⟩ := execTxnew_starts c hf
  have huf : u.fault = false := hsu.fault_eq.trans hf
  obtain ⟨v, happ, huv, hvlen, hvcmd, hvpay⟩ := feedsBlank_txapp p huf (by omega)
  rw [hulen, hp, Nat.zero_add] at hvlen
  rw [hupay, List.nil_append] at hvpay
  have hfull := execTxapp_full b (huv.fault_eq.trans huf) hvlen
  have hblank := FeedsBlank.cons (i := .txnew c) hnew hresp happ
  have hfeed := hblank.feed_concat (i := .txapp b) hfull
  rw [List.length_cons, List.length_map, hp] at hfeed
  rw [List.map_append, List.map_singleton, ← List.cons_append]
  exact ⟨_, hfeed, rfl, hvlen, hvpay, hvcmd.trans hucmd⟩

/-- Settles O34: the block is not faulted, so the rule of R112 applies. -/
theorem txnewStartsAFrame : Obligations.TxnewStartsAFrame :=
  fun c _ hf => execTxnew_running c hf

/-- Settles O35, by the capacity check of R113. -/
theorem txappAppendsOrFaults : Obligations.TxappAppendsOrFaults := by
  refine fun b s hf => ⟨fun room => ?_, execTxapp_full b hf⟩
  have happ := execTxapp_running b hf room
  have hstored := (execTxapp_txpByte_of_room happ hf room s.txLen.val).trans (if_pos rfl)
  exact ⟨_, happ, rfl, rfl, hstored, fun _ => execTxapp_txpByte happ⟩

/-- Settles O36: the wire frame and its checksum, in integer arithmetic. -/
theorem txencEncodesTheFrame : Obligations.TxencEncodesTheFrame := by
  intro s hf
  have hp := s.txPayload_length_le
  refine ⟨_, _, execTxenc_running hf, rfl, ?_, s.txPayload_length, fun _ => s.txPayload_getElem?⟩
  rw [wireBytes_eq _ _ hp, csum8_summedBytes _ hp, s.txPayload_length]
  rfl

end Sys2Proof.Proofs
end

section
/-! SUPPORT. The two ways in which the queue changes, what each queue operation answers while running, what any operation does to
the queue (R132 to R139), and the events of a sequence of operations (R138). -/

namespace Sys2Proof.Machine

/-! ### The store of an event and the taking of the oldest one -/

/-- The state after an accepted `PUSH` of an event (R132). -/
def State.pushed (s : State) (e : KeyEvent) : State :=
  { s with slot := Memory.write s.slot s.wr.val e, wr := inc10 s.wr }.respond { Response.blank with accepted := true }

/-- The state after a successful `POP` (R136). -/
def State.popped (s : State) : State :=
  { s with rd := inc10 s.rd }.respond { Response.blank with event := s.slotEvent s.rd.val }

/-- An accepted push stores its event at `SLOT[wr]` and nowhere else (R132). -/
theorem State.pushed_slotEvent (s : State) (e : KeyEvent) (a : Nat) :
    (s.pushed e).slotEvent a = if a = s.wr.val then e else s.slotEvent a := by
  rw [State.slotEvent, State.pushed, State.respond_slot, Memory.read_write]
  split_ifs <;> rfl

theorem State.pushed_qCount {s : State} (e : KeyEvent) (hroom : s.qFull = false) : (s.pushed e).qCount = s.qCount + 1 :=
  State.qCount_advance_wr hroom rfl rfl

theorem State.popped_qCount {s : State} (hheld : s.qEmpty = false) : s.popped.qCount + 1 = s.qCount :=
  State.qCount_advance_rd hheld rfl rfl

/-- The slots of the held events are other slots than the one `wr` names (R24). -/
theorem State.held_slot_ne_wr {s : State} {k : Nat} (hk : k < s.qCount) : (s.rd.val + k) % 10 ≠ s.wr.val := by
  have hcount := s.qCount_le
  have hwr := s.rd_add_qCount
  omega

/-- An accepted push puts its event behind the held ones. -/
theorem State.pushed_held {s : State} (e : KeyEvent) (hroom : s.qFull = false) : (s.pushed e).held = s.held ++ [e] := by
  have hkeep : ∀ k ∈ List.range s.qCount,
      (s.pushed e).slotEvent ((s.rd.val + k) % 10) = s.slotEvent ((s.rd.val + k) % 10) := fun k hk => by
    rw [s.pushed_slotEvent, if_neg (State.held_slot_ne_wr (List.mem_range.mp hk))]
  have hnew : (s.pushed e).slotEvent ((s.rd.val + s.qCount) % 10) = e := by
    rw [s.pushed_slotEvent, if_pos s.rd_add_qCount]
  calc (s.pushed e).held
      = (List.range (s.qCount + 1)).map fun k => (s.pushed e).slotEvent ((s.rd.val + k) % 10) := by
        rw [State.held, State.pushed_qCount e hroom]
        rfl
    _ = s.held ++ [e] := by
        rw [List.range_succ, List.map_append, List.map_congr_left hkeep, List.map_singleton, hnew, State.held]

/-- A successful pop answers with the oldest of the held events and leaves the rest. -/
theorem State.held_eq_cons_popped {s : State} (hheld : s.qEmpty = false) :
    s.held = s.slotEvent s.rd.val :: s.popped.held := by
  have hshift : ∀ k, (s.rd.val + (k + 1)) % 10 = ((inc10 s.rd).val + k) % 10 := fun k => by
    rw [inc10_val]
    omega
  have hfirst : (s.rd.val + 0) % 10 = s.rd.val := Nat.mod_eq_of_lt (SlotIndex.val_lt s.rd)
  rw [State.held, ← State.popped_qCount hheld, List.range_succ_eq_map, List.map_cons, List.map_map, hfirst]
  simp only [Function.comp_def, Nat.succ_eq_add_one, hshift]
  rfl

theorem SameQueue.held_eq {s t : State} (h : SameQueue s t) : t.held = s.held := by
  obtain ⟨hwr, hrd, hslot⟩ := h
  rw [State.held, State.held, State.qCount, State.qCount, hwr, hrd]
  simp only [hslot]

/-! ### The queue operations while running -/

theorem execPush_of_room (d : Direction) (u : Byte) {s : State} (hf : s.fault = false) (hmode : s.mode = .keyboard)
    (hroom : s.qFull = false) : execPush d u s = .next (s.pushed ⟨d, u⟩) := by
  rw [execPush, whenRunning_running s _ hf, if_neg (not_not.mpr hmode), if_neg (Bool.eq_false_iff.mp hroom)]
  rfl

/-- A push is dropped in `Negotiating` mode (R133) and when the queue is full (R134). -/
theorem execPush_dropped (d : Direction) (u : Byte) {s : State} (hf : s.fault = false)
    (hdrop : s.mode ≠ .keyboard ∨ s.qFull = true) : execPush d u s = .next (s.respond Response.blank) := by
  rw [execPush, whenRunning_running s _ hf]
  by_cases hmode : s.mode ≠ .keyboard
  · rw [if_pos hmode]
  · rw [if_neg hmode, if_pos (hdrop.resolve_left hmode)]

theorem execPop_of_held {s : State} (hf : s.fault = false) (hheld : s.qEmpty = false) : execPop s = .next s.popped := by
  rw [execPop, whenRunning_running s _ hf, if_neg (Bool.eq_false_iff.mp hheld)]
  rfl

theorem execPop_of_empty {s : State} (hf : s.fault = false) (hempty : s.qEmpty = true) :
    execPop s = .next (s.respond { Response.blank with empty := true }) := by
  rw [execPop, whenRunning_running s _ hf, if_pos hempty]

/-! ### What the queue operations leave unchanged -/

/-- The second state is the first but for the queue indices, `SLOT` and the response. -/
def SameButQueue (s t : State) : Prop :=
  t = { s with wr := t.wr, rd := t.rd, slot := t.slot, resp := t.resp }

theorem SameButQueue.groups {s t : State} (h : SameButQueue s t) :
    SameReceive s t ∧ SameTransmit s t ∧ SameControl s t ∧ SameOutside s t := by
  rw [h]
  exact ⟨⟨rfl, rfl, rfl, rfl, rfl, fun _ => rfl⟩, ⟨rfl, rfl, rfl, fun _ => rfl⟩, ⟨rfl, rfl⟩, rfl, rfl⟩

theorem execPush_frame {d : Direction} {u : Byte} {s t : State} (h : execPush d u s = .next t) :
    t = { s with wr := t.wr, slot := t.slot, resp := t.resp } := by
  obtain ⟨-, rfl⟩ | ⟨-, -, rfl⟩ | ⟨-, -, -, rfl⟩ := execPush_next h <;> rfl

theorem execPop_frame {s t : State} (h : execPop s = .next t) : t = { s with rd := t.rd, resp := t.resp } := by
  obtain ⟨-, rfl⟩ | ⟨-, -, rfl⟩ | ⟨-, -, rfl⟩ := execPop_next h <;> rfl

theorem execPush_slotEvent {d : Direction} {u : Byte} {s t : State} (h : execPush d u s = .next t) {a : Nat}
    (ha : a ≠ s.wr.val) : t.slotEvent a = s.slotEvent a := by
  obtain ⟨-, rfl⟩ | ⟨-, -, rfl⟩ | ⟨-, -, -, rfl⟩ := execPush_next h
  · rfl
  · rfl
  · exact (s.pushed_slotEvent ⟨d, u⟩ a).trans (if_neg ha)

theorem exec_queue_sameButQueue {i : Instr} {s t : State} (h : exec i s = .next t)
    (hi : (∃ d u, i = .push d u) ∨ i = .pop) : SameButQueue s t := by
  obtain ⟨d, u, rfl⟩ | rfl := hi
  · rw [execPush_frame h, SameButQueue]
  · rw [execPop_frame h, SameButQueue]

/-! ### What an operation does to the queue (R139) -/

theorem exec_transmit_keeps_queue {i : Instr} {s t : State} (h : exec i s = .next t)
    (hi : (∃ c, i = .txnew c) ∨ (∃ b, i = .txapp b) ∨ i = .txenc) : SameQueue s t := by
  obtain ⟨-, hqueue, -⟩ := (exec_transmit_sameButTransmit h hi).groups
  exact hqueue

/-- No operation but `PUSH` and `POP` writes the queue (R41). -/
theorem exec_keeps_queue {i : Instr} {s t : State} (h : exec i s = .next t) (hpush : ∀ d u, i ≠ .push d u)
    (hpop : i ≠ .pop) : SameQueue s t := by
  cases i with
  | rxb b =>
    obtain ⟨-, hqueue, -⟩ := (execRxb_sameButReceive h).groups
    exact hqueue
  | abort => obtain ⟨-, rfl⟩ | ⟨-, rfl⟩ := execAbort_next h <;> exact ⟨rfl, rfl, fun _ => rfl⟩
  | modek => obtain ⟨-, rfl⟩ | ⟨-, rfl⟩ := execModek_next h <;> exact ⟨rfl, rfl, fun _ => rfl⟩
  | txnew c => exact exec_transmit_keeps_queue h (.inl ⟨c, rfl⟩)
  | txapp b => exact exec_transmit_keeps_queue h (.inr (.inl ⟨b, rfl⟩))
  | txenc => exact exec_transmit_keeps_queue h (.inr (.inr rfl))
  | push d u => exact absurd rfl (hpush d u)
  | pop => exact absurd rfl hpop

/-- No operation but `PUSH` answers that it accepted an event (R76). -/
theorem exec_resp_accepted_of_not_push {i : Instr} {s t : State} (h : exec i s = .next t) (hpush : ∀ d u, i ≠ .push d u) :
    ∃ r, t.resp = some r ∧ r.accepted = false := by
  obtain ⟨-, hr⟩ | ⟨-, r, hr, hown⟩ := exec_resp h
  · exact ⟨_, hr, rfl⟩
  · refine ⟨r, hr, ?_⟩
    cases i with
    | rxb b => obtain ⟨_, _, rfl⟩ := hown; rfl
    | txapp b => obtain rfl | rfl := hown <;> rfl
    | txenc => obtain ⟨_, rfl⟩ := hown; rfl
    | push d u => exact absurd rfl (hpush d u)
    | pop => obtain rfl | ⟨_, rfl⟩ := hown <;> rfl
    | abort | modek | txnew c => obtain rfl := hown; rfl

/-- The answer is that of a pop that returned an event (R136, R138). -/
def PopSucceeded (i : Instr) (r : Response) : Prop :=
  i = .pop ∧ r.status = .ok ∧ r.empty = false

/-- What an operation that answers does to the queue: it is an accepted push, it is a successful pop, or it leaves the queue and
says so. -/
theorem exec_queue_cases {i : Instr} {s t : State} (h : exec i s = .next t) :
    (∃ d u, i = .push d u ∧ s.qFull = false ∧ t = s.pushed ⟨d, u⟩) ∨
    (i = .pop ∧ s.qEmpty = false ∧ t = s.popped) ∨
    (SameQueue s t ∧ ∃ r, t.resp = some r ∧ r.accepted = false ∧ ¬PopSucceeded i r) := by
  by_cases hpush : ∃ d u, i = .push d u
  · obtain ⟨d, u, rfl⟩ := hpush
    obtain ⟨-, rfl⟩ | ⟨-, -, rfl⟩ | ⟨-, -, hroom, rfl⟩ := execPush_next h
    · exact .inr (.inr ⟨⟨rfl, rfl, fun _ => rfl⟩, _, rfl, rfl, nofun⟩)
    · exact .inr (.inr ⟨⟨rfl, rfl, fun _ => rfl⟩, _, rfl, rfl, nofun⟩)
    · exact .inl ⟨d, u, rfl, hroom, rfl⟩
  by_cases hpop : i = .pop
  · subst hpop
    obtain ⟨-, rfl⟩ | ⟨-, -, rfl⟩ | ⟨-, hheld, rfl⟩ := execPop_next h
    · exact .inr (.inr ⟨⟨rfl, rfl, fun _ => rfl⟩, _, rfl, rfl, nofun⟩)
    · exact .inr (.inr ⟨⟨rfl, rfl, fun _ => rfl⟩, _, rfl, rfl, nofun⟩)
    · exact .inr (.inl ⟨rfl, hheld, rfl⟩)
  have hother : ∀ d u, i ≠ .push d u := fun d u hi => hpush ⟨d, u, hi⟩
  obtain ⟨r, hr, haccepted⟩ := exec_resp_accepted_of_not_push h hother
  exact .inr (.inr ⟨exec_keeps_queue h hother hpop, r, hr, haccepted, fun ⟨hi, _⟩ => hpop hi⟩)

/-! ### The events of a sequence of operations (R138) -/

theorem acceptedEvents_cons (i : Instr) (o : Option Response) (is : List Instr) (rs : List (Option Response)) :
    acceptedEvents (i :: is) (o :: rs) = acceptedEvents [i] [o] ++ acceptedEvents is rs := by
  cases i with
  | push d u =>
    cases o with
    | none => rfl
    | some r => cases haccepted : r.accepted <;> simp [acceptedEvents, haccepted]
  | _ => rfl

theorem poppedEvents_cons (i : Instr) (o : Option Response) (is : List Instr) (rs : List (Option Response)) :
    poppedEvents (i :: is) (o :: rs) = poppedEvents [i] [o] ++ poppedEvents is rs := by
  cases i with
  | pop =>
    cases o with
    | none => rfl
    | some r => by_cases hok : r.status = .ok ∧ r.empty = false <;> simp [poppedEvents, hok]
  | _ => rfl

theorem acceptedEvents_of_not_accepted (i : Instr) {r : Response} (h : r.accepted = false) :
    acceptedEvents [i] [some r] = [] := by
  cases i with
  | push d u => exact if_neg (Bool.eq_false_iff.mp h)
  | _ => rfl

theorem poppedEvents_of_not_succeeded {i : Instr} {r : Response} (h : ¬PopSucceeded i r) : poppedEvents [i] [some r] = [] := by
  cases i with
  | pop => exact if_neg fun hok => h ⟨rfl, hok⟩
  | _ => rfl

/-- First in, first out, for one operation. -/
theorem exec_first_in_first_out {i : Instr} {s t : State} (h : exec i s = .next t) :
    poppedEvents [i] [t.resp] ++ t.held = s.held ++ acceptedEvents [i] [t.resp] := by
  obtain ⟨d, u, rfl, hroom, rfl⟩ | ⟨rfl, hheld, rfl⟩ | ⟨hsame, r, hr, haccepted, hsucceeded⟩ := exec_queue_cases h
  · exact State.pushed_held ⟨d, u⟩ hroom
  · rw [State.held_eq_cons_popped hheld]
    exact (List.append_nil _).symm
  · rw [hr, acceptedEvents_of_not_accepted i haccepted, poppedEvents_of_not_succeeded hsucceeded, hsame.held_eq,
      List.nil_append, List.append_nil]

/-- First in, first out, over a sequence of operations. -/
theorem feed_first_in_first_out {ops : List Instr} {s t : State} {rs : List (Option Response)}
    (h : feed (ops.map opInput) s = some (t, rs)) : poppedEvents ops rs ++ t.held = s.held ++ acceptedEvents ops rs := by
  induction ops generalizing s rs with
  | nil =>
    cases h
    exact (List.append_nil _).symm
  | cons i ops ih =>
    obtain ⟨u, rs', hstep, hfeed, rfl⟩ := feed_cons_some h
    rw [step_present_opInput] at hstep
    calc poppedEvents (i :: ops) (u.resp :: rs') ++ t.held
        = poppedEvents [i] [u.resp] ++ (poppedEvents ops rs' ++ t.held) := by
          rw [poppedEvents_cons, List.append_assoc]
      _ = (poppedEvents [i] [u.resp] ++ u.held) ++ acceptedEvents ops rs' := by rw [ih hfeed, List.append_assoc]
      _ = (s.held ++ acceptedEvents [i] [u.resp]) ++ acceptedEvents ops rs' := by rw [exec_first_in_first_out hstep]
      _ = s.held ++ acceptedEvents (i :: ops) (u.resp :: rs') := by rw [acceptedEvents_cons i u.resp ops, List.append_assoc]

/-- A sequence of pushes for which there is room is accepted whole, and its events stand behind the held ones in order (R132). -/
theorem feed_pushes {es : List KeyEvent} {s : State} (hf : s.fault = false) (hmode : s.mode = .keyboard)
    (hroom : s.qCount + es.length ≤ 9) :
    ∃ t, feed (es.map fun e => opInput (.push e.direction e.usage)) s =
        some (t, List.replicate es.length (some { Response.blank with accepted := true })) ∧
      t.fault = false ∧ t.held = s.held ++ es := by
  induction es generalizing s with
  | nil => exact ⟨s, rfl, hf, s.held.append_nil.symm⟩
  | cons e es ih =>
    rw [List.length_cons] at hroom
    have hnotfull : s.qFull = false := Bool.eq_false_iff.mpr fun hfull => by
      have hcount := s.qFull_iff_qCount.mp hfull
      omega
    have hpush := execPush_of_room e.direction e.usage hf hmode hnotfull
    have hcount := State.pushed_qCount e hnotfull
    obtain ⟨t, hfeed, htf, hheld⟩ := ih (s := s.pushed e) hf hmode (by omega)
    refine ⟨t, ?_, htf, ?_⟩
    · rw [List.map_cons, feed_cons_next _ ((step_present_opInput (.push e.direction e.usage) s).trans hpush), hfeed]
      rfl
    · rw [hheld, State.pushed_held e hnotfull, ← List.append_cons]

end Sys2Proof.Machine
end

section
/-! The statements of 42_queue.md. -/

namespace Sys2Proof.Proofs

open Sys2Proof.Machine

/-- Settles O48, by induction on the operations: each keeps the equation, since the queue changes only by an accepted push, which
puts its event last, and by a successful pop, which takes the first. -/
theorem queueIsFirstInFirstOut : Obligations.QueueIsFirstInFirstOut :=
  fun _ _ _ _ => feed_first_in_first_out

/-- Settles O44: neither operation writes outside the queue; then operation by operation. -/
theorem queueFrame : Obligations.QueueFrame := by
  intro i s t h hi
  obtain ⟨hrx, htx, hcontrol, hout⟩ := (exec_queue_sameButQueue h hi).groups
  refine ⟨hrx, htx, hcontrol, hout, ?_⟩
  obtain ⟨d, u, rfl⟩ | rfl := hi
  · exact ⟨nofun, fun _ => ⟨(congrArg State.rd (execPush_frame h) :), fun _ => execPush_slotEvent h⟩⟩
  · have hframe := execPop_frame h
    exact ⟨fun _ => ⟨(congrArg State.wr hframe :), fun a => (congrArg (State.slotEvent · a) hframe :)⟩,
      fun hne => absurd rfl hne⟩

/-- Settles O46, by the three things an operation can do to the queue. -/
theorem queueCountMovesByOne : Obligations.QueueCountMovesByOne := by
  intro i s t r h hr
  obtain ⟨d, u, rfl, hroom, rfl⟩ | ⟨rfl, hheld, rfl⟩ | ⟨⟨hwr, hrd, -⟩, r', hr', haccepted, hsucceeded⟩ :=
    exec_queue_cases h
  · obtain rfl := Option.some.inj hr
    have hcount := State.pushed_qCount ⟨d, u⟩ hroom
    have hbound := (s.pushed ⟨d, u⟩).qCount_le
    exact ⟨fun _ => ⟨hcount, by omega⟩, nofun, nofun⟩
  · obtain rfl := Option.some.inj hr
    exact ⟨nofun, fun _ _ _ => State.popped_qCount hheld, fun _ hno => absurd ⟨rfl, rfl, rfl⟩ hno⟩
  · obtain rfl := Option.some.inj (hr'.symm.trans hr)
    exact ⟨fun hyes => absurd (haccepted.symm.trans hyes) Bool.false_ne_true,
      fun hpop hok hempty => absurd ⟨hpop, hok, hempty⟩ hsucceeded, fun _ _ => ⟨hwr, hrd⟩⟩

/-- Settles O49: an empty queue has room for nine, and the ninth makes it full. -/
theorem queueAcceptsExactlyNine : Obligations.QueueAcceptsExactlyNine := by
  intro es e s hf hmode hidx hlen
  have hempty : s.qEmpty = true := s.qEmpty_iff.mpr hidx
  have hcount : s.qCount = 0 := s.qEmpty_iff_qCount.mp hempty
  obtain ⟨t, hfeed, htf, hheld⟩ := feed_pushes hf hmode (es := es) (by omega)
  have hnone : s.held = [] := List.length_eq_zero_iff.mp (s.held_length.trans hcount)
  rw [hnone, List.nil_append] at hheld
  have hfull : t.qFull = true := t.qFull_iff_qCount.mpr (by rw [← t.held_length, hheld, hlen])
  have htenth := execPush_dropped e.direction e.usage htf (.inr hfull)
  refine ⟨execPop_of_empty hf hempty, t, hlen ▸ hfeed, hfull, hheld, ?_⟩
  exact feed_cons_next [] ((step_present_opInput (.push e.direction e.usage) t).trans htenth)

/-- Settles O42, by mode and room. -/
theorem pushStoresOrDrops : Obligations.PushStoresOrDrops := by
  refine fun d u s hf => ⟨fun hmode hidx => ?_, fun hmode => ?_, fun hidx => ?_⟩
  · have hroom : s.qFull = false := Bool.eq_false_iff.mpr fun hfull => hidx (s.qFull_iff.mp hfull)
    exact ⟨_, execPush_of_room d u hf hmode hroom, rfl, rfl, (s.pushed_slotEvent ⟨d, u⟩ _).trans (if_pos rfl),
      fun a ha => (s.pushed_slotEvent ⟨d, u⟩ a).trans (if_neg ha)⟩
  · exact execPush_dropped d u hf (.inl (by rw [hmode]; decide))
  · exact execPush_dropped d u hf (.inr (s.qFull_iff.mpr hidx))

/-- Settles O43, by whether the indices are equal. -/
theorem popReturnsOldestOrEmpty : Obligations.PopReturnsOldestOrEmpty := by
  refine fun s hf => ⟨fun hidx => ?_, fun hidx => execPop_of_empty hf (s.qEmpty_iff.mpr hidx)⟩
  have hheld : s.qEmpty = false := Bool.eq_false_iff.mpr fun hempty => hidx (s.qEmpty_iff.mp hempty)
  exact ⟨_, execPop_of_held hf hheld, rfl, rfl⟩

end Sys2Proof.Proofs
end

section
/-! SUPPORT. The session operations while running, what they leave unchanged, and which operations write the mode (43_session.md). -/

namespace Sys2Proof.Machine

/-! ### The session operations while running -/

theorem execModek_running {s : State} (hf : s.fault = false) :
    execModek s = .next ({ s with mode := .keyboard }.respond Response.blank) :=
  whenRunning_running s _ hf

theorem execAbort_running {s : State} (hf : s.fault = false) :
    execAbort s = .next ({ s with rxState := .init, mode := .negotiating }.respond Response.blank) :=
  whenRunning_running s _ hf

/-! ### What the session operations leave unchanged (R151, R153, R154) -/

/-- The second state is the first but for `rx_state`, the mode and the response. -/
def SameButSession (s t : State) : Prop :=
  t = { s with rxState := t.rxState, mode := t.mode, resp := t.resp }

theorem SameButSession.groups {s t : State} (h : SameButSession s t) :
    SameTransmit s t ∧ SameQueue s t ∧ SameOutside s t := by
  rw [h]
  exact ⟨⟨rfl, rfl, rfl, fun _ => rfl⟩, ⟨rfl, rfl, fun _ => rfl⟩, rfl, rfl⟩

theorem SameButSession.fault_eq {s t : State} (h : SameButSession s t) : t.fault = s.fault :=
  (congrArg State.fault h :)

/-- Of the receive registers only `rx_state` may differ. -/
theorem SameButSession.receive {s t : State} (h : SameButSession s t) :
    SameReceive { s with rxState := t.rxState } t := by
  rw [h]
  exact ⟨rfl, rfl, rfl, rfl, rfl, fun _ => rfl⟩

theorem exec_session_sameButSession {i : Instr} {s t : State} (h : exec i s = .next t) (hi : i = .modek ∨ i = .abort) :
    SameButSession s t := by
  obtain rfl | rfl := hi
  · obtain ⟨-, rfl⟩ | ⟨-, rfl⟩ := execModek_next h <;> exact rfl
  · obtain ⟨-, rfl⟩ | ⟨-, rfl⟩ := execAbort_next h <;> exact rfl

/-! ### Which operations write the mode (R150) -/

theorem exec_transmit_keeps_mode {i : Instr} {s t : State} (h : exec i s = .next t)
    (hi : (∃ c, i = .txnew c) ∨ (∃ b, i = .txapp b) ∨ i = .txenc) : t.mode = s.mode := by
  obtain ⟨-, -, ⟨hmode, -⟩, -⟩ := (exec_transmit_sameButTransmit h hi).groups
  exact hmode

theorem exec_queue_keeps_mode {i : Instr} {s t : State} (h : exec i s = .next t)
    (hi : (∃ d u, i = .push d u) ∨ i = .pop) : t.mode = s.mode := by
  obtain ⟨-, -, ⟨hmode, -⟩, -⟩ := (exec_queue_sameButQueue h hi).groups
  exact hmode

/-- What an operation does to the mode: it keeps it, it is `MODEK` and enters `Keyboard`, or it is `ABORT` and reverts to
`Negotiating`. -/
theorem exec_mode_cases {i : Instr} {s t : State} (h : exec i s = .next t) :
    t.mode = s.mode ∨ (i = .modek ∧ t.mode = .keyboard) ∨ (i = .abort ∧ t.mode = .negotiating) := by
  cases i with
  | rxb b =>
    obtain ⟨-, -, ⟨hmode, -⟩, -⟩ := (execRxb_sameButReceive h).groups
    exact .inl hmode
  | abort =>
    obtain ⟨-, rfl⟩ | ⟨-, rfl⟩ := execAbort_next h
    · exact .inl rfl
    · exact .inr (.inr ⟨rfl, rfl⟩)
  | modek =>
    obtain ⟨-, rfl⟩ | ⟨-, rfl⟩ := execModek_next h
    · exact .inl rfl
    · exact .inr (.inl ⟨rfl, rfl⟩)
  | txnew c => exact .inl (exec_transmit_keeps_mode h (.inl ⟨c, rfl⟩))
  | txapp b => exact .inl (exec_transmit_keeps_mode h (.inr (.inl ⟨b, rfl⟩)))
  | txenc => exact .inl (exec_transmit_keeps_mode h (.inr (.inr rfl)))
  | push d u => exact .inl (exec_queue_keeps_mode h (.inl ⟨d, u, rfl⟩))
  | pop => exact .inl (exec_queue_keeps_mode h (.inr rfl))

end Sys2Proof.Machine
end

section
/-! The statements of 43_session.md. -/

namespace Sys2Proof.Proofs

open Sys2Proof.Machine

/-- Settles O52: neither operation writes more than `rx_state`, the mode and the response, and `MODEK` does not write the first;
held events are read from the queue alone. -/
theorem sessionFrame : Obligations.SessionFrame := by
  intro i s t h hi
  have hsame := exec_session_sameButSession h hi
  obtain ⟨htx, hqueue, hout⟩ := hsame.groups
  obtain ⟨-, hlen, hcmd, hcsum, hcnt, hrxp⟩ := hsame.receive
  refine ⟨htx, hqueue, hout, hsame.fault_eq, hqueue.held_eq, hlen, hcmd, hcsum, hcnt, hrxp, ?_⟩
  rintro rfl
  exact exec_keeps_rxState h nofun nofun

/-- Settles O53, by the four things a step can be: idling and the refusal of a reserved word keep the mode, reset makes it
`Negotiating`, and of the operations only `MODEK` and `ABORT` write it. -/
theorem modeTransitions : Obligations.ModeTransitions := by
  refine ⟨rfl, fun s t h hne => ?_⟩
  obtain ⟨-, hs⟩ | ⟨rest, hp, hs⟩ | ⟨w, rest, i, hp, hd, hs⟩ | ⟨w, rest, r, -, -, hs⟩ := step_cases s
  · obtain rfl := Host.Outcome.next.inj (hs.symm.trans h)
    exact absurd rfl hne
  · obtain rfl := Host.Outcome.next.inj (hs.symm.trans h)
    exact .inr ⟨rfl, .inr ⟨rest, hp⟩⟩
  · obtain hkeep | ⟨rfl, hmode⟩ | ⟨rfl, hmode⟩ := exec_mode_cases (hs.symm.trans h)
    · exact absurd hkeep hne
    · exact .inl ⟨hmode, w, rest, hp, hd⟩
    · exact .inr ⟨hmode, .inl ⟨w, rest, hp, hd⟩⟩
  · rw [hs, refuseReserved_eq] at h
    obtain rfl := Host.Outcome.next.inj h
    exact absurd rfl hne

/-- Settles O50: the block is not faulted, so the rule of R151 applies. -/
theorem modekEntersKeyboard : Obligations.ModekEntersKeyboard :=
  fun _ => execModek_running

/-- Settles O51: the block is not faulted, so the rule of R153 applies. -/
theorem abortResetsReceiverAndMode : Obligations.AbortResetsReceiverAndMode :=
  fun _ => execAbort_running

end Sys2Proof.Proofs
end

section
/-! SUPPORT. A reserved word's step, the refusal of everything while faulted, and which operations write `fault`
(60_exceptions.md). -/

namespace Sys2Proof.Machine

/-! ### Refusals -/

/-- A presented word that denotes no operation is refused on the state without it (R73, R168). -/
theorem step_of_decode_error {s : State} {w : Word} {rest : List Input} {r : Reserved}
    (hp : s.pending = .word w :: rest) (hd : decode w = .error r) :
    step s = refuseReserved { s with pending := rest } := by
  rw [step, takeInput_cons hp]
  simp only [hd]

/-- Every operation is a rule of its own behind the check of `fault` (R171). -/
theorem exec_guarded (i : Instr) (s : State) : ∃ rule, exec i s = whenRunning s rule := by
  cases i with
  | rxb b => exact ⟨rxArm b, rfl⟩
  | abort => exact ⟨_, execAbort.eq_def s⟩
  | modek => exact ⟨_, execModek.eq_def s⟩
  | txnew c => exact ⟨_, execTxnew.eq_def c s⟩
  | txapp b => exact ⟨_, execTxapp.eq_def b s⟩
  | txenc => exact ⟨_, execTxenc.eq_def s⟩
  | push d u => exact ⟨_, execPush.eq_def d u s⟩
  | pop => exact ⟨_, execPop.eq_def s⟩

/-- While faulted every operation is refused (R167). -/
theorem exec_faulted (i : Instr) {s : State} (hf : s.fault = true) :
    exec i s = .next (s.respond (Response.ofStatus .faulted)) := by
  obtain ⟨rule, hrule⟩ := exec_guarded i s
  exact hrule.trans (whenRunning_faulted s rule hf)

/-- While faulted the answer to a word does not depend on whether it is reserved (R167). -/
theorem step_word_faulted {s : State} {w : Word} {rest : List Input} (hf : s.fault = true)
    (hp : s.pending = .word w :: rest) :
    step s = .next ({ s with pending := rest }.respond (Response.ofStatus .faulted)) := by
  cases hd : decode w with
  | ok i => exact (step_of_decode_ok hp hd).trans (exec_faulted i hf)
  | error r => exact (step_of_decode_error hp hd).trans (whenRunning_faulted _ _ hf)

/-- While faulted only a reset input gives a state that is not faulted (R167, R173). -/
theorem step_clears_fault {s t : State} (hf : s.fault = true) (h : step s = .next t) (ht : t.fault = false) :
    ∃ rest, s.pending = .reset :: rest := by
  have hne : t.fault ≠ s.fault := by rw [hf, ht]; decide
  have hword : ∀ {w rest}, s.pending ≠ .word w :: rest := fun hp => by
    obtain rfl := Host.Outcome.next.inj ((step_word_faulted hf hp).symm.trans h)
    exact hne rfl
  obtain ⟨-, hs⟩ | ⟨rest, hp, -⟩ | ⟨w, rest, i, hp, -⟩ | ⟨w, rest, r, hp, -⟩ := step_cases s
  · obtain rfl := Host.Outcome.next.inj (hs.symm.trans h)
    exact absurd rfl hne
  · exact ⟨rest, hp⟩
  · exact absurd hp hword
  · exact absurd hp hword

/-! ### Which operations write `fault` (R166) -/

theorem exec_queue_keeps_fault {i : Instr} {s t : State} (h : exec i s = .next t)
    (hi : (∃ d u, i = .push d u) ∨ i = .pop) : t.fault = s.fault := by
  obtain ⟨-, -, ⟨-, hfault⟩, -⟩ := (exec_queue_sameButQueue h hi).groups
  exact hfault

/-- What an operation does to `fault`: it keeps it, or it is a `TXAPP` without room. -/
theorem exec_fault_cases {i : Instr} {s t : State} (h : exec i s = .next t) :
    t.fault = s.fault ∨ ∃ b, i = .txapp b ∧ s.txLen.val = 128 := by
  cases i with
  | rxb b =>
    obtain ⟨-, -, ⟨-, hfault⟩, -⟩ := (execRxb_sameButReceive h).groups
    exact .inl hfault
  | abort => exact .inl (exec_session_sameButSession h (.inr rfl)).fault_eq
  | modek => exact .inl (exec_session_sameButSession h (.inl rfl)).fault_eq
  | txnew c => exact .inl (congrArg State.fault (execTxnew_frame h) :)
  | txapp b =>
    obtain ⟨-, rfl⟩ | ⟨-, -, rfl⟩ | ⟨-, hfull, -⟩ := execTxapp_next h
    · exact .inl rfl
    · exact .inl rfl
    · exact .inr ⟨b, rfl, hfull⟩
  | txenc => exact .inl (congrArg State.fault (execTxenc_frame h) :)
  | push d u => exact .inl (exec_queue_keeps_fault h (.inl ⟨d, u, rfl⟩))
  | pop => exact .inl (exec_queue_keeps_fault h (.inr rfl))

/-- Over every step, `fault` rises only by a `TXAPP` word without room. -/
theorem step_raises_fault {s t : State} (h : step s = .next t) (hf : s.fault = false) (ht : t.fault = true) :
    ∃ w rest b, s.pending = .word w :: rest ∧ decode w = .ok (.txapp b) ∧ s.txLen.val = 128 := by
  have hne : t.fault ≠ s.fault := by rw [hf, ht]; decide
  obtain ⟨-, hs⟩ | ⟨rest, -, hs⟩ | ⟨w, rest, i, hp, hd, hs⟩ | ⟨w, rest, r, -, -, hs⟩ := step_cases s
  · obtain rfl := Host.Outcome.next.inj (hs.symm.trans h)
    exact absurd rfl hne
  · obtain rfl := Host.Outcome.next.inj (hs.symm.trans h)
    cases ht
  · obtain hkeep | ⟨b, rfl, hfull⟩ := exec_fault_cases (hs.symm.trans h)
    · exact absurd hkeep hne
    · exact ⟨w, rest, b, hp, hd, hfull⟩
  · rw [hs, refuseReserved_eq] at h
    obtain rfl := Host.Outcome.next.inj h
    exact absurd rfl hne

end Sys2Proof.Machine
end

section
/-! The statements of 60_exceptions.md. -/

namespace Sys2Proof.Proofs

open Sys2Proof.Machine

/-- Settles O11: the check of `fault` comes first in every operation and in the refusal of a reserved word, so only reset is
left to clear it. -/
theorem faultedBlockRefusesEverything : Obligations.FaultedBlockRefusesEverything :=
  fun _ hf => ⟨fun i => exec_faulted i hf, fun _ _ => step_word_faulted hf, fun _ => step_clears_fault hf⟩

/-- Settles O15: the append finds no room, and of all that a step can do only that raises `fault`. -/
theorem capacityFaultEffectAndOnlyCause : Obligations.CapacityFaultEffectAndOnlyCause :=
  ⟨fun b _ => execTxapp_full b, fun _ _ => step_raises_fault⟩

/-- Settles O10: the word is the next input taken, and its refusal writes the response only. -/
theorem reservedWordRefused : Obligations.ReservedWordRefused :=
  fun _ _ _ _ hp hd => (step_of_decode_error hp hd).trans (refuseReserved_eq _)

end Sys2Proof.Proofs
end

section
/-! SUPPORT. What a step does with each kind of presented input (70_reset_and_hazards.md), and runs of the block that no `RXB`,
`ABORT` or reset reaches (R91, R199). -/

namespace Sys2Proof.Machine

/-! ### A step, by what is presented -/

theorem step_of_nothing {s : State} (hp : s.pending = []) : step s = .next s := by
  rw [step, takeInput_nil hp]
  rfl

theorem step_of_reset {s : State} {rest : List Input} (hp : s.pending = .reset :: rest) :
    step s = .next (applyReset { s with pending := rest }) := by
  rw [step, takeInput_cons hp]

/-- No operation touches the inputs still presented or the count of resets. -/
theorem exec_sameOutside {i : Instr} {s t : State} (h : exec i s = .next t) : SameOutside s t := by
  by_cases hrxb : ∃ b, i = .rxb b
  · obtain ⟨b, rfl⟩ := hrxb
    obtain ⟨-, -, -, hout⟩ := (execRxb_sameButReceive h).groups
    exact hout
  · rw [exec_frame_of_not_rxb h fun b hi => hrxb ⟨b, hi⟩]
    exact ⟨rfl, rfl⟩

/-- A word is taken, whether it is an operation or reserved, and is no reset. -/
theorem step_word_sameOutside {s t : State} {w : Word} {rest : List Input} (hp : s.pending = .word w :: rest)
    (h : step s = .next t) : SameOutside { s with pending := rest } t := by
  cases hd : decode w with
  | ok i => exact exec_sameOutside ((step_of_decode_ok hp hd).symm.trans h)
  | error r =>
    rw [step_of_decode_error hp hd, refuseReserved_eq] at h
    obtain rfl := Host.Outcome.next.inj h
    exact ⟨rfl, rfl⟩

/-! ### A stalled receiver (R91, R199) -/

/-- Only `RXB` can stop, so any other operation answers, also where the invariants fail. -/
theorem exec_answers_of_not_rxb {i : Instr} (s : State) (hrxb : ∀ b, i ≠ .rxb b) : ∃ t, exec i s = .next t := by
  cases i with
  | rxb b => exact absurd rfl (hrxb b)
  | abort => exact execAbort_answers s
  | modek => exact execModek_answers s
  | txnew c => exact execTxnew_answers c s
  | txapp b => exact execTxapp_answers b s
  | txenc => exact execTxenc_answers s
  | push d u => exact execPush_answers d u s
  | pop => exact execPop_answers s

/-- An input is a word that denotes neither `RXB` nor `ABORT`. -/
def LeavesReceiver (x : Input) : Prop :=
  ∃ w, x = .word w ∧ (∀ b, decode w ≠ .ok (.rxb b)) ∧ decode w ≠ .ok .abort

theorem step_of_leavesReceiver {s : State} (h : ∀ x ∈ s.pending, LeavesReceiver x) :
    ∃ t, step s = .next t ∧ t.rxState = s.rxState ∧ t.pending = s.pending.tail := by
  cases hp : s.pending with
  | nil => exact ⟨s, step_of_nothing hp, rfl, hp⟩
  | cons x rest =>
    obtain ⟨w, rfl, hrxb, habort⟩ := h x (by rw [hp]; exact List.mem_cons_self)
    cases hd : decode w with
    | ok i =>
      have hnot : ∀ b, i ≠ .rxb b := fun b hi => hrxb b (hi ▸ hd)
      obtain ⟨t, ht⟩ := exec_answers_of_not_rxb { s with pending := rest } hnot
      obtain ⟨hpending, -⟩ := exec_sameOutside ht
      have hrx := exec_keeps_rxState ht hnot fun hi => habort (hi ▸ hd)
      exact ⟨t, (step_of_decode_ok hp hd).trans ht, hrx, hpending⟩
    | error r => exact ⟨_, (step_of_decode_error hp hd).trans (refuseReserved_eq _), rfl, rfl⟩

/-- A run begins with a step. -/
theorem run_succ_of_step {M : Host.Core} {s t : M.State} (k : Nat) (h : M.step s = .next t) :
    M.run (k + 1) s = M.run k t := by
  rw [Host.Core.run, h]

/-- However many steps are taken, inputs that leave the receiver leave `rx_state`. -/
theorem run_of_leavesReceiver (k : Nat) {s : State} (h : ∀ x ∈ s.pending, LeavesReceiver x) :
    ∃ t, Host.Core.run core k s = .next t ∧ t.rxState = s.rxState := by
  induction k generalizing s with
  | zero => exact ⟨s, rfl, rfl⟩
  | succ k ih =>
    obtain ⟨u, hstep, hrx, hpending⟩ := step_of_leavesReceiver h
    obtain ⟨t, hrun, ht⟩ := ih (s := u) fun x hx => h x (List.mem_of_mem_tail (hpending ▸ hx))
    exact ⟨t, (run_succ_of_step (M := core) k hstep).trans hrun, ht.trans hrx⟩

end Sys2Proof.Machine
end

section
/-! SUPPORT. Two states that differ only in what unwritten elements contain answer alike: each operation, and a step (R188). -/

namespace Sys2Proof.Machine

/-! ### The relation -/

/-- The contents of the other state's arrays and its count of resets, by name. -/
theorem SameButUnwritten.exists_contents {s u : State} (h : SameButUnwritten s u) :
    ∃ rxp txp slot n, u = { s with rxp := rxp, txp := txp, slot := slot, resets := n } ∧
      Memory.Extends s.rxp rxp ∧ Memory.Extends s.txp txp ∧ Memory.Extends s.slot slot :=
  ⟨u.rxp, u.txp, u.slot, u.resets, h⟩

theorem SameButUnwritten.resp_eq {s u : State} (h : SameButUnwritten s u) : u.resp = s.resp :=
  (congrArg State.resp h.1 :)

theorem SameButUnwritten.pending_eq {s u : State} (h : SameButUnwritten s u) : u.pending = s.pending :=
  (congrArg State.pending h.1 :)

theorem SameButUnwritten.fault_eq {s u : State} (h : SameButUnwritten s u) : u.fault = s.fault :=
  (congrArg State.fault h.1 :)

theorem SameButUnwritten.rxState_eq {s u : State} (h : SameButUnwritten s u) : u.rxState = s.rxState :=
  (congrArg State.rxState h.1 :)

theorem SameButUnwritten.withPending {s u : State} (h : SameButUnwritten s u) (rest : List Input) :
    SameButUnwritten { s with pending := rest } { u with pending := rest } := by
  obtain ⟨rxp, txp, slot, n, rfl, hcontents⟩ := h.exists_contents
  exact ⟨rfl, hcontents⟩

theorem SameButUnwritten.respond {s u : State} (h : SameButUnwritten s u) (r : Response) :
    SameButUnwritten (s.respond r) (u.respond r) := by
  obtain ⟨rxp, txp, slot, n, rfl, hcontents⟩ := h.exists_contents
  exact ⟨rfl, hcontents⟩

/-- A reset leaves no element written. -/
theorem SameButUnwritten.applyReset {s u : State} (h : SameButUnwritten s u) :
    SameButUnwritten (applyReset s) (applyReset u) := by
  obtain ⟨rxp, txp, slot, n, rfl, -⟩ := h.exists_contents
  exact ⟨rfl, Memory.extends_nil _, Memory.extends_nil _, Memory.extends_nil _⟩

/-! ### What two such states answer -/

/-- Both outcomes are next states, which differ only in what unwritten elements contain. -/
def AnswersAlike (o o' : Host.Outcome State Fault Refusal) : Prop :=
  ∃ t v, o = .next t ∧ o' = .next v ∧ SameButUnwritten t v

/-- The `Data` arm reads no array and stores the same byte in both at the same index (R95). -/
theorem rxDataArm_alike {s u : State} (b : Byte) (h : SameButUnwritten s u) (room : s.rxCnt.val < 128) :
    AnswersAlike (rxDataArm b s) (rxDataArm b u) := by
  obtain ⟨rxp, txp, slot, n, rfl, hrxp, htxp, hslot⟩ := h.exists_contents
  exact ⟨_, _, dif_pos room, dif_pos room, rfl, hrxp.write _ _, htxp, hslot⟩

/-- No arm of the receive state machine reads an array. -/
theorem rxArm_alike {s u : State} (b : Byte) (h : SameButUnwritten s u) (hinv : ReceiveInv s) :
    AnswersAlike (rxArm b s) (rxArm b u) := by
  obtain ⟨t, ht⟩ := rxArm_answers b hinv
  obtain ⟨rxp, txp, slot, n, rfl, hcontents⟩ := h.exists_contents
  obtain ⟨r, hst⟩ : ∃ r, s.rxState = r := ⟨_, rfl⟩
  cases r with
  | init => exact ⟨_, _, rxArm_init b hst, rxArm_init b hst, rfl, hcontents⟩
  | sync => exact ⟨_, _, rxArm_sync b hst, rxArm_sync b hst, rfl, hcontents⟩
  | lenLow => exact ⟨_, _, rxArm_lenLow b hst, rxArm_lenLow b hst, rfl, hcontents⟩
  | lenHigh => exact ⟨_, _, rxArm_lenHigh b hst, rxArm_lenHigh b hst, rfl, hcontents⟩
  | command => exact ⟨_, _, rxArm_command b hst, rxArm_command b hst, rfl, hcontents⟩
  | data =>
    obtain ⟨room, -⟩ := rxDataArm_next ((rxArm_data b hst).symm.trans ht)
    obtain ⟨t, v, hs, hu, htv⟩ := rxDataArm_alike b h room
    exact ⟨t, v, (rxArm_data b hst).trans hs, (rxArm_data b (h.rxState_eq.trans hst)).trans hu, htv⟩
  | checksum => exact ⟨_, _, rxArm_checksum b hst, rxArm_checksum b hst, rfl, hcontents⟩

theorem execRxb_alike {s u : State} (b : Byte) (h : SameButUnwritten s u) (hf : s.fault = false) (hinv : StateInv s) :
    AnswersAlike (execRxb b s) (execRxb b u) := by
  rw [execRxb_running b hf, execRxb_running b (h.fault_eq.trans hf)]
  exact rxArm_alike b h hinv.receive

/-- An append reads no array and stores the same byte in both at the same index (R113). -/
theorem execTxapp_alike {s u : State} (b : Byte) (h : SameButUnwritten s u) (hf : s.fault = false) :
    AnswersAlike (execTxapp b s) (execTxapp b u) := by
  obtain ⟨rxp, txp, slot, n, rfl, hrxp, htxp, hslot⟩ := h.exists_contents
  by_cases room : s.txLen.val < 128
  · exact ⟨_, _, execTxapp_running b hf room, execTxapp_running b (h.fault_eq.trans hf) room, rfl, hrxp,
      htxp.write _ _, hslot⟩
  · have hfull : s.txLen.val = 128 := Nat.le_antisymm (Nat.lt_succ_iff.mp s.txLen.isLt) (not_lt.mp room)
    exact ⟨_, _, execTxapp_full b hf hfull, execTxapp_full b hf hfull, rfl, hrxp, htxp, hslot⟩

/-- `TXENC` reads the payload, every byte of which has been written (R22). -/
theorem execTxenc_alike {s u : State} (h : SameButUnwritten s u) (hf : s.fault = false) (hinv : StateInv s) :
    AnswersAlike (execTxenc s) (execTxenc u) := by
  have hpayload := h.txPayload_eq hinv.txpWritten
  have hu := execTxenc_running (h.fault_eq.trans hf)
  rw [hpayload] at hu
  obtain ⟨rxp, txp, slot, n, rfl, hcontents⟩ := h.exists_contents
  exact ⟨_, _, execTxenc_running hf, hu, rfl, hcontents⟩

/-- A push reads no slot and stores the same event in both at the same index (R132). -/
theorem execPush_alike {s u : State} (d : Direction) (e : Byte) (h : SameButUnwritten s u) (hf : s.fault = false) :
    AnswersAlike (execPush d e s) (execPush d e u) := by
  obtain ⟨rxp, txp, slot, n, rfl, hrxp, htxp, hslot⟩ := h.exists_contents
  by_cases hstores : s.mode = .keyboard ∧ s.qFull = false
  · obtain ⟨hmode, hroom⟩ := hstores
    exact ⟨_, _, execPush_of_room d e hf hmode hroom, execPush_of_room d e hf hmode hroom, rfl, hrxp, htxp,
      hslot.write _ _⟩
  · have hdrop : s.mode ≠ .keyboard ∨ s.qFull = true := by
      rwa [not_and_or, Bool.not_eq_false] at hstores
    exact ⟨_, _, execPush_dropped d e hf hdrop, execPush_dropped d e hf hdrop, rfl, hrxp, htxp, hslot⟩

/-- The slot of the oldest held event has been written (R25). -/
theorem StateInv.oldestWritten {s : State} (hinv : StateInv s) (hheld : s.qEmpty = false) :
    (Memory.read s.slot s.rd.val).isSome = true := by
  have hpos : 0 < s.qCount := by
    have hcount := State.popped_qCount hheld
    omega
  have hwritten := hinv.slotWritten 0 hpos
  rwa [Nat.add_zero, Nat.mod_eq_of_lt (SlotIndex.val_lt s.rd)] at hwritten

/-- A pop reads the slot of the oldest held event, which has been written (R136). -/
theorem execPop_alike {s u : State} (h : SameButUnwritten s u) (hf : s.fault = false) (hinv : StateInv s) :
    AnswersAlike (execPop s) (execPop u) := by
  cases hheld : s.qEmpty with
  | true =>
    obtain ⟨rxp, txp, slot, n, rfl, hcontents⟩ := h.exists_contents
    exact ⟨_, _, execPop_of_empty hf hheld, execPop_of_empty hf hheld, rfl, hcontents⟩
  | false =>
    have hevent := h.slotEvent_eq (hinv.oldestWritten hheld)
    obtain ⟨rxp, txp, slot, n, rfl, hcontents⟩ := h.exists_contents
    refine ⟨_, _, execPop_of_held hf hheld, execPop_of_held hf hheld, ?_, hcontents⟩
    rw [State.popped, State.popped, hevent]
    rfl

/-- The session operations and `TXNEW` touch no array; the others are the cases above. -/
theorem exec_alike {s u : State} (i : Instr) (h : SameButUnwritten s u) (hinv : StateInv s) :
    AnswersAlike (exec i s) (exec i u) := by
  cases hf : s.fault with
  | true => exact ⟨_, _, exec_faulted i hf, exec_faulted i (h.fault_eq.trans hf), h.respond _⟩
  | false =>
    obtain ⟨rxp, txp, slot, n, rfl, hcontents⟩ := h.exists_contents
    cases i with
    | rxb b => exact execRxb_alike b h hf hinv
    | abort => exact ⟨_, _, execAbort_running hf, execAbort_running hf, rfl, hcontents⟩
    | modek => exact ⟨_, _, execModek_running hf, execModek_running hf, rfl, hcontents⟩
    | txnew c => exact ⟨_, _, execTxnew_running c hf, execTxnew_running c hf, rfl, hcontents⟩
    | txapp b => exact execTxapp_alike b h hf
    | txenc => exact execTxenc_alike h hf hinv
    | push d e => exact execPush_alike d e h hf
    | pop => exact execPop_alike h hf hinv

theorem refuseReserved_alike {s u : State} (h : SameButUnwritten s u) :
    AnswersAlike (refuseReserved s) (refuseReserved u) := by
  refine ⟨_, _, refuseReserved_eq s, refuseReserved_eq u, ?_⟩
  rw [h.fault_eq]
  exact h.respond _

/-! ### A step -/

theorem step_alike {s u : State} (h : SameButUnwritten s u) (hinv : StateInv s) : AnswersAlike (step s) (step u) := by
  obtain ⟨hp, hs⟩ | ⟨rest, hp, hs⟩ | ⟨w, rest, i, hp, hd, hs⟩ | ⟨w, rest, r, hp, hd, hs⟩ := step_cases s <;>
    have hpu := h.pending_eq.trans hp
  · exact ⟨s, u, hs, step_of_nothing hpu, h⟩
  · exact ⟨_, _, hs, step_of_reset hpu, (h.withPending rest).applyReset⟩
  · rw [hs, step_of_decode_ok hpu hd]
    exact exec_alike i (h.withPending rest) (hinv.withPending rest)
  · rw [hs, step_of_decode_error hpu hd]
    exact refuseReserved_alike (h.withPending rest)

/-! ### States that list the same elements -/

/-- Arrays in canonical form that list the same elements are equal data. -/
theorem Memory.Extends.antisymm {α : Type} {size : Nat} {m n : List (Nat × α)} (h : Memory.Extends m n)
    (g : Memory.Extends n m) (hm : Memory.wf size m = true) (hn : Memory.wf size n = true) : m = n :=
  Memory.eq_of_read_eq size 0 m n hm hn fun i => Option.ext fun v => ⟨h i v, g i v⟩

/-- If neither of two states with the invariants lists an element that the other does not, they differ in the count of resets at
most. -/
theorem SameButUnwritten.eq_withResets {s u : State} (h : SameButUnwritten s u) (g : SameButUnwritten u s)
    (hs : StateInv s) (hu : StateInv u) : u = { s with resets := u.resets } := by
  obtain ⟨heq, hrxp, htxp, hslot⟩ := h
  obtain ⟨-, grxp, gtxp, gslot⟩ := g
  rwa [← hrxp.antisymm grxp hs.rxpForm hu.rxpForm, ← htxp.antisymm gtxp hs.txpForm hu.txpForm,
    ← hslot.antisymm gslot hs.slotForm hu.slotForm] at heq

theorem SameButUnwritten.withResets (s : State) (n : Nat) : SameButUnwritten s { s with resets := n } :=
  ⟨rfl, .refl _, .refl _, .refl _⟩

theorem SameButUnwritten.ofResets (s : State) (n : Nat) : SameButUnwritten { s with resets := n } s :=
  .withResets { s with resets := n } s.resets

theorem StateInv.withResets {s : State} (h : StateInv s) (n : Nat) : StateInv { s with resets := n } :=
  .of_groups h.receive h.transmit h.queue

/-- Steps of states that differ in the count of resets at most lead to states that do so too. -/
theorem step_withResets {s : State} (n : Nat) (hinv : StateInv s) :
    ∃ t v, step s = .next t ∧ step { s with resets := n } = .next v ∧ v = { t with resets := v.resets } := by
  obtain ⟨t, v, hst, hsv, htv⟩ := step_alike (.withResets s n) hinv
  obtain ⟨v', t', hsv', hst', hvt⟩ := step_alike (.ofResets s n) (hinv.withResets n)
  obtain rfl := Host.Outcome.next.inj (hst.symm.trans hst')
  obtain rfl := Host.Outcome.next.inj (hsv.symm.trans hsv')
  exact ⟨t, v, hst, hsv, htv.eq_withResets hvt (step_keeps_stateInv hinv hst)
    (step_keeps_stateInv (hinv.withResets n) hsv)⟩

end Sys2Proof.Machine
end

section
/-! The statements of 70_reset_and_hazards.md. -/

namespace Sys2Proof.Proofs

open Sys2Proof.Machine

/-- Settles O59: each of the two states lists what the other lists, so by the argument of O60 in both directions the next states
list the same elements too, which in canonical form makes them equal; a word is no reset. -/
theorem unwrittenElementsAreNeverRead : Obligations.UnwrittenElementsAreNeverRead := by
  intro s n w rest hinv hp
  obtain ⟨t, v, hst, hsv, hv⟩ := step_withResets n hinv
  obtain ⟨-, hresets⟩ := step_word_sameOutside (s := { s with resets := n }) hp hsv
  rw [hresets] at hv
  exact ⟨t, hst, hv ▸ hsv⟩

/-- Settles O33, by induction on the steps: each takes an input that leaves the receiver, or none. -/
theorem stalledReceiverStays : Obligations.StalledReceiverStays :=
  fun k _ => run_of_leavesReceiver k

/-- Settles O60, by the four things a step can be: only `TXENC` and `POP` read an array, and what they read has been written. -/
theorem stepIgnoresUnwrittenElements : Obligations.StepIgnoresUnwrittenElements := by
  intro s u hinv h
  obtain ⟨t, v, hst, huv, htv⟩ := step_alike h hinv
  exact ⟨t, v, hst, huv, htv, htv.resp_eq⟩

/-- Settles O9: there is no input to take. -/
theorem stepIdlesWithoutInput : Obligations.StepIdlesWithoutInput :=
  fun _ => step_of_nothing

/-- Settles O12: the reset is the next input taken, and the state after it lists no element. -/
theorem resetPutsRegistersAtResetValues : Obligations.ResetPutsRegistersAtResetValues :=
  fun _ _ hp => ⟨_, step_of_reset hp, rfl, rfl, rfl, rfl, rfl, rfl, rfl, rfl, rfl, rfl, rfl, rfl, rfl, rfl,
    fun _ => ⟨rfl, rfl, rfl⟩⟩

/-- Settles O13: at reset the block is not faulted, the receiver is in `Init`, the mode is `Negotiating`, and the queue and the
transmit frame are empty. -/
theorem firstOperationsAfterReset : Obligations.FirstOperationsAfterReset := by
  have hcsum : csum8 (summedBytes State.reset.txCmd State.reset.txPayload) = 0 := by decide
  have hwire : wireBytes State.reset.txCmd State.reset.txPayload 0 = [0x3A, 0x00, 0x00, 0x00, 0x00] := by decide
  have htxenc := execTxenc_running (s := State.reset) rfl
  rw [hcsum, hwire] at htxenc
  refine ⟨step_of_nothing rfl, fun b => ?_, fun d u => ?_, execPop_of_empty rfl rfl, htxenc⟩
  · exact (execRxb_running b rfl).trans (rxArm_init b rfl)
  · exact execPush_dropped d u rfl (.inl nofun)

end Sys2Proof.Proofs
end
